-- ==== Sys2Proof/Word.lean ====
section
/-! DEFINITION. The words of the hardware: bytes, 16-bit words, register numbers (R5, R10, R12). All quantities are
unsigned (R5). -/

namespace Sys2Proof

/-- An 8-bit value: a general register, a timer, a memory cell. -/
abbrev Byte := BitVec 8

/-- A 16-bit value: `I`, `PC`, a return address, an instruction word. -/
abbrev Word := BitVec 16

/-- The number of a general register, `0` to `15` (R10); also `wait_x` (R28). -/
abbrev Reg := Fin 16

/-- The 17-bit `fault_info` (R27). -/
abbrev Info := BitVec 17

end Sys2Proof
end

