-- ==== Sys2Proof/Syntax.lean ====
section
/-! DEFINITION. The 34 instructions of the opcode map (R66), one constructor per row, in the table's order. A nibble that
a row ignores (R67, R108, R110) is kept as a field, so that each legal word is one term. -/

namespace Sys2Proof

inductive Instr where
  /-- `00E0` (R150) -/
  | cls
  /-- `00EE` (R80) -/
  | ret
  /-- `1nnn` (R81) -/
  | jp (nnn : BitVec 12)
  /-- `2nnn` (R82) -/
  | call (nnn : BitVec 12)
  /-- `3xkk` (R83) -/
  | seVxKk (x : Reg) (kk : Byte)
  /-- `4xkk` (R84) -/
  | sneVxKk (x : Reg) (kk : Byte)
  /-- `5xyN` (R85); `n` is ignored (R67) -/
  | seVxVy (x y : Reg) (n : BitVec 4)
  /-- `6xkk` (R100) -/
  | ldVxKk (x : Reg) (kk : Byte)
  /-- `7xkk` (R101) -/
  | addVxKk (x : Reg) (kk : Byte)
  /-- `8xy0` (R102) -/
  | ldVxVy (x y : Reg)
  /-- `8xy1` (R103) -/
  | orVxVy (x y : Reg)
  /-- `8xy2` (R104) -/
  | andVxVy (x y : Reg)
  /-- `8xy3` (R105) -/
  | xorVxVy (x y : Reg)
  /-- `8xy4` (R106) -/
  | addVxVy (x y : Reg)
  /-- `8xy5` (R107) -/
  | subVxVy (x y : Reg)
  /-- `8xy6` (R108); `y` is ignored -/
  | shrVx (x y : Reg)
  /-- `8xy7` (R109) -/
  | subnVxVy (x y : Reg)
  /-- `8xyE` (R110); `y` is ignored -/
  | shlVx (x y : Reg)
  /-- `9xyN` (R86); `n` is ignored (R67) -/
  | sneVxVy (x y : Reg) (n : BitVec 4)
  /-- `Annn` (R120) -/
  | ldINnn (nnn : BitVec 12)
  /-- `Bnnn` (R88) -/
  | jpV0Nnn (nnn : BitVec 12)
  /-- `Cxkk` (R140) -/
  | rndVxKk (x : Reg) (kk : Byte)
  /-- `Dxyn` (R152) -/
  | drwVxVyN (x y : Reg) (n : BitVec 4)
  /-- `Ex9E` (R154) -/
  | skpVx (x : Reg)
  /-- `ExA1` (R155) -/
  | sknpVx (x : Reg)
  /-- `Fx07` (R142) -/
  | ldVxDt (x : Reg)
  /-- `Fx0A` (R157) -/
  | ldVxK (x : Reg)
  /-- `Fx15` (R143) -/
  | ldDtVx (x : Reg)
  /-- `Fx18` (R144) -/
  | ldStVx (x : Reg)
  /-- `Fx1E` (R122) -/
  | addIVx (x : Reg)
  /-- `Fx29` (R123) -/
  | ldFVx (x : Reg)
  /-- `Fx33` (R124) -/
  | ldBVx (x : Reg)
  /-- `Fx55` (R125) -/
  | ldMemIVx (x : Reg)
  /-- `Fx65` (R126) -/
  | ldVxMemI (x : Reg)
  deriving DecidableEq, Repr

end Sys2Proof
end

