-- ==== Sys2Proof/WellFormed.lean ====
section
/-! DEFINITION. The canonical spelling of an instruction (R67, R72): an ignored nibble is 0. The operand types admit nothing
else that has no encoding, so these are all the checks there are. A term that fails one still has a word, still decodes
from it and still executes: R67 makes no such word illegal (DEDUCED, safe, log 10). -/

namespace Sys2Proof

/-- The ignored nibble of the instruction is 0, as an assembler emits it (R67, R72). -/
def Instr.wellFormed : Instr → Bool
  | .seVxVy _ _ n => n == 0
  | .sneVxVy _ _ n => n == 0
  | .shrVx _ y => y == 0
  | .shlVx _ y => y == 0
  | .cls | .ret | .jp _ | .call _ | .seVxKk _ _ | .sneVxKk _ _ | .ldVxKk _ _ | .addVxKk _ _ => true
  | .ldVxVy _ _ | .orVxVy _ _ | .andVxVy _ _ | .xorVxVy _ _ | .addVxVy _ _ | .subVxVy _ _ | .subnVxVy _ _ => true
  | .ldINnn _ | .jpV0Nnn _ | .rndVxKk _ _ | .drwVxVyN _ _ _ | .skpVx _ | .sknpVx _ | .ldVxDt _ | .ldVxK _ => true
  | .ldDtVx _ | .ldStVx _ | .addIVx _ | .ldFVx _ | .ldBVx _ | .ldMemIVx _ | .ldVxMemI _ => true

end Sys2Proof
end

