-- ==== Sys2Proof/Decode.lean ====
section
/-! DEFINITION. Decoding (R60 to R70) and, after it, the encoder written from the same formats (R62) and the same opcode
map (R66). -/

namespace Sys2Proof

/-- Why bytes are no instruction: a word that matches no row of the map (R68), or fewer than two bytes (R60). -/
inductive DecodeError where
  | illegalInstruction (opcode : Word)
  | truncated
  deriving DecidableEq, Repr

/-- A register number from its 4-bit field (R61). -/
def regOfBits (b : BitVec 4) : Reg := ⟨b.toNat, b.isLt⟩

/-- The 4-bit field of a register number. -/
def bitsOfReg (r : Reg) : BitVec 4 := BitVec.ofNat 4 r.val

/-- `op = bits[15:12]` (R61). -/
def opField (w : Word) : BitVec 4 := w.extractLsb' 12 4

/-- `x = bits[11:8]` (R61). -/
def xField (w : Word) : Reg := regOfBits (w.extractLsb' 8 4)

/-- `y = bits[7:4]` (R61). -/
def yField (w : Word) : Reg := regOfBits (w.extractLsb' 4 4)

/-- `n = bits[3:0]` (R61). -/
def nField (w : Word) : BitVec 4 := w.extractLsb' 0 4

/-- `kk = bits[7:0]` (R61). -/
def kkField (w : Word) : Byte := w.extractLsb' 0 8

/-- `nnn = bits[11:0]` (R61). -/
def nnnField (w : Word) : BitVec 12 := w.extractLsb' 0 12

/-- Class 0x0 decodes on all of `nnn` (R64, 90 C2). -/
def decodeClass0 (w : Word) : Except DecodeError Instr :=
  match nnnField w with
  | 0x0E0#12 => .ok .cls
  | 0x0EE#12 => .ok .ret
  | _ => .error (.illegalInstruction w)

/-- Class 0x8 decodes on `n` (R64). -/
def decodeClass8 (w : Word) : Except DecodeError Instr :=
  match nField w with
  | 0x0#4 => .ok (.ldVxVy (xField w) (yField w))
  | 0x1#4 => .ok (.orVxVy (xField w) (yField w))
  | 0x2#4 => .ok (.andVxVy (xField w) (yField w))
  | 0x3#4 => .ok (.xorVxVy (xField w) (yField w))
  | 0x4#4 => .ok (.addVxVy (xField w) (yField w))
  | 0x5#4 => .ok (.subVxVy (xField w) (yField w))
  | 0x6#4 => .ok (.shrVx (xField w) (yField w))
  | 0x7#4 => .ok (.subnVxVy (xField w) (yField w))
  | 0xE#4 => .ok (.shlVx (xField w) (yField w))
  | _ => .error (.illegalInstruction w)

/-- Class 0xE decodes on `kk` (R64). -/
def decodeClassE (w : Word) : Except DecodeError Instr :=
  match kkField w with
  | 0x9E#8 => .ok (.skpVx (xField w))
  | 0xA1#8 => .ok (.sknpVx (xField w))
  | _ => .error (.illegalInstruction w)

/-- Class 0xF decodes on `kk` (R64). -/
def decodeClassF (w : Word) : Except DecodeError Instr :=
  match kkField w with
  | 0x07#8 => .ok (.ldVxDt (xField w))
  | 0x0A#8 => .ok (.ldVxK (xField w))
  | 0x15#8 => .ok (.ldDtVx (xField w))
  | 0x18#8 => .ok (.ldStVx (xField w))
  | 0x1E#8 => .ok (.addIVx (xField w))
  | 0x29#8 => .ok (.ldFVx (xField w))
  | 0x33#8 => .ok (.ldBVx (xField w))
  | 0x55#8 => .ok (.ldMemIVx (xField w))
  | 0x65#8 => .ok (.ldVxMemI (xField w))
  | _ => .error (.illegalInstruction w)

/-- The decode stage (R64): by class, and in classes 0x0, 0x8, 0xE, 0xF by the sub-key. -/
def decodeWord (w : Word) : Except DecodeError Instr :=
  match opField w with
  | 0x0#4 => decodeClass0 w
  | 0x1#4 => .ok (.jp (nnnField w))
  | 0x2#4 => .ok (.call (nnnField w))
  | 0x3#4 => .ok (.seVxKk (xField w) (kkField w))
  | 0x4#4 => .ok (.sneVxKk (xField w) (kkField w))
  | 0x5#4 => .ok (.seVxVy (xField w) (yField w) (nField w))
  | 0x6#4 => .ok (.ldVxKk (xField w) (kkField w))
  | 0x7#4 => .ok (.addVxKk (xField w) (kkField w))
  | 0x8#4 => decodeClass8 w
  | 0x9#4 => .ok (.sneVxVy (xField w) (yField w) (nField w))
  | 0xA#4 => .ok (.ldINnn (nnnField w))
  | 0xB#4 => .ok (.jpV0Nnn (nnnField w))
  | 0xC#4 => .ok (.rndVxKk (xField w) (kkField w))
  | 0xD#4 => .ok (.drwVxVyN (xField w) (yField w) (nField w))
  | 0xE#4 => decodeClassE w
  | _ => decodeClassF w

/-- The instruction word of two bytes, the byte at the lower address first: big-endian (R42, R60). -/
def wordOfBytes (hi lo : Byte) : Word := hi ++ lo

/-- Decodes one instruction from a byte sequence and gives the rest of it (R60). -/
def decode : List Byte → Except DecodeError (Instr × List Byte)
  | hi :: lo :: rest => (decodeWord (wordOfBytes hi lo)).map (·, rest)
  | _ => .error .truncated

/-- Format `A`: `op nnn` (R62). -/
def formatA (op : BitVec 4) (nnn : BitVec 12) : Word := op ++ nnn

/-- Formats `XK` and `XF`: `op x kk` (R62). -/
def formatXK (op : BitVec 4) (x : Reg) (kk : Byte) : Word := op ++ (bitsOfReg x ++ kk)

/-- Format `XY`: `op x y n` (R62). -/
def formatXY (op : BitVec 4) (x y : Reg) (n : BitVec 4) : Word := op ++ (bitsOfReg x ++ (bitsOfReg y ++ n))

/-- The word of an instruction (R66). Format `Z` is format `A` with all bits fixed (R62). -/
def encode : Instr → Word
  | .cls => formatA 0x0 0x0E0
  | .ret => formatA 0x0 0x0EE
  | .jp nnn => formatA 0x1 nnn
  | .call nnn => formatA 0x2 nnn
  | .seVxKk x kk => formatXK 0x3 x kk
  | .sneVxKk x kk => formatXK 0x4 x kk
  | .seVxVy x y n => formatXY 0x5 x y n
  | .ldVxKk x kk => formatXK 0x6 x kk
  | .addVxKk x kk => formatXK 0x7 x kk
  | .ldVxVy x y => formatXY 0x8 x y 0x0
  | .orVxVy x y => formatXY 0x8 x y 0x1
  | .andVxVy x y => formatXY 0x8 x y 0x2
  | .xorVxVy x y => formatXY 0x8 x y 0x3
  | .addVxVy x y => formatXY 0x8 x y 0x4
  | .subVxVy x y => formatXY 0x8 x y 0x5
  | .shrVx x y => formatXY 0x8 x y 0x6
  | .subnVxVy x y => formatXY 0x8 x y 0x7
  | .shlVx x y => formatXY 0x8 x y 0xE
  | .sneVxVy x y n => formatXY 0x9 x y n
  | .ldINnn nnn => formatA 0xA nnn
  | .jpV0Nnn nnn => formatA 0xB nnn
  | .rndVxKk x kk => formatXK 0xC x kk
  | .drwVxVyN x y n => formatXY 0xD x y n
  | .skpVx x => formatXK 0xE x 0x9E
  | .sknpVx x => formatXK 0xE x 0xA1
  | .ldVxDt x => formatXK 0xF x 0x07
  | .ldVxK x => formatXK 0xF x 0x0A
  | .ldDtVx x => formatXK 0xF x 0x15
  | .ldStVx x => formatXK 0xF x 0x18
  | .addIVx x => formatXK 0xF x 0x1E
  | .ldFVx x => formatXK 0xF x 0x29
  | .ldBVx x => formatXK 0xF x 0x33
  | .ldMemIVx x => formatXK 0xF x 0x55
  | .ldVxMemI x => formatXK 0xF x 0x65

/-- The `mask` column of the opcode map (R66). -/
def Instr.rowMask : Instr → Word
  | .cls => 0xFFFF
  | .ret => 0xFFFF
  | .jp _ => 0xF000
  | .call _ => 0xF000
  | .seVxKk _ _ => 0xF000
  | .sneVxKk _ _ => 0xF000
  | .seVxVy _ _ _ => 0xF000
  | .ldVxKk _ _ => 0xF000
  | .addVxKk _ _ => 0xF000
  | .ldVxVy _ _ => 0xF00F
  | .orVxVy _ _ => 0xF00F
  | .andVxVy _ _ => 0xF00F
  | .xorVxVy _ _ => 0xF00F
  | .addVxVy _ _ => 0xF00F
  | .subVxVy _ _ => 0xF00F
  | .shrVx _ _ => 0xF00F
  | .subnVxVy _ _ => 0xF00F
  | .shlVx _ _ => 0xF00F
  | .sneVxVy _ _ _ => 0xF000
  | .ldINnn _ => 0xF000
  | .jpV0Nnn _ => 0xF000
  | .rndVxKk _ _ => 0xF000
  | .drwVxVyN _ _ _ => 0xF000
  | .skpVx _ => 0xF0FF
  | .sknpVx _ => 0xF0FF
  | .ldVxDt _ => 0xF0FF
  | .ldVxK _ => 0xF0FF
  | .ldDtVx _ => 0xF0FF
  | .ldStVx _ => 0xF0FF
  | .addIVx _ => 0xF0FF
  | .ldFVx _ => 0xF0FF
  | .ldBVx _ => 0xF0FF
  | .ldMemIVx _ => 0xF0FF
  | .ldVxMemI _ => 0xF0FF

/-- The `match` column of the opcode map (R66): a word is a word of the row when its masked bits are these. -/
def Instr.rowMatch : Instr → Word
  | .cls => 0x00E0
  | .ret => 0x00EE
  | .jp _ => 0x1000
  | .call _ => 0x2000
  | .seVxKk _ _ => 0x3000
  | .sneVxKk _ _ => 0x4000
  | .seVxVy _ _ _ => 0x5000
  | .ldVxKk _ _ => 0x6000
  | .addVxKk _ _ => 0x7000
  | .ldVxVy _ _ => 0x8000
  | .orVxVy _ _ => 0x8001
  | .andVxVy _ _ => 0x8002
  | .xorVxVy _ _ => 0x8003
  | .addVxVy _ _ => 0x8004
  | .subVxVy _ _ => 0x8005
  | .shrVx _ _ => 0x8006
  | .subnVxVy _ _ => 0x8007
  | .shlVx _ _ => 0x800E
  | .sneVxVy _ _ _ => 0x9000
  | .ldINnn _ => 0xA000
  | .jpV0Nnn _ => 0xB000
  | .rndVxKk _ _ => 0xC000
  | .drwVxVyN _ _ _ => 0xD000
  | .skpVx _ => 0xE09E
  | .sknpVx _ => 0xE0A1
  | .ldVxDt _ => 0xF007
  | .ldVxK _ => 0xF00A
  | .ldDtVx _ => 0xF015
  | .ldStVx _ => 0xF018
  | .addIVx _ => 0xF01E
  | .ldFVx _ => 0xF029
  | .ldBVx _ => 0xF033
  | .ldMemIVx _ => 0xF055
  | .ldVxMemI _ => 0xF065

/-- The two bytes of an instruction in memory order, high byte first (R60). -/
def encodeBytes (i : Instr) : List Byte := [(encode i).extractLsb' 8 8, (encode i).extractLsb' 0 8]

/-- The instruction the decoder reads from a word `w` of `nbits` bits numbered as the opcode table numbers them, bits above
`nbits` being 0; the word is laid out high byte first (R60). -/
def decodeTableWord (nbits w : Nat) : Option Instr :=
  let bits := w % 2 ^ nbits
  match decode [BitVec.ofNat 8 (bits / 256), BitVec.ofNat 8 bits] with
  | .ok (i, _) => some i
  | .error _ => none

end Sys2Proof
end

