-- ==== Sys2Proof/Config.lean ====
section
/-! DEFINITION. What is fixed for one build of the hardware (R4), what the environment may send (R197), and the free
values: every `opaque` constant below has no body, so a theorem holds whatever it is. -/

namespace Sys2Proof

/-- The environment's answers to the requests one core turn can issue: `rnd` is the random byte `r` (R196), `collision`
the answer bit `c` to a draw (R191), `keyDown` the answer bit `p` to a key query (R192). -/
structure Answers where
  rnd : Byte
  collision : Bool
  keyDown : Bool
  deriving DecidableEq, Repr, Inhabited

/-- One move of the machine or of what stands around it (R187, R189, R197). -/
inductive Event where
  /-- the host's `Reset` (R210) -/
  | reset
  /-- the host's `Load(bytes)` (R213) -/
  | load (bytes : List Byte)
  /-- the host's `Start` (R216) -/
  | start
  /-- one clock period of the timer engine; it ticks when the prescaler wraps (R184) -/
  | clock
  /-- the input `exit_req` takes a level (R194) -/
  | exitReq (level : Bool)
  /-- the answer `k` to the outstanding key wait (R193) -/
  | keyEvent (k : Byte)
  /-- the environment accepts the outstanding `render` request (R181, R195, R197) -/
  | renderAccepted
  /-- the core takes its turn, with the answers the environment gives to that turn's requests -/
  | core (answers : Answers)
  deriving DecidableEq, Repr, Inhabited

/-- `MEM_SIZE` (R4): the number of memory cells. -/
def Config.memSize : Nat := 4096

/-- `LOAD_BASE` (R4): where a program is loaded, and the reset value of `PC`. -/
def Config.loadBase : Nat := 0x200

/-- `ROM_MAX` (R4): the longest loadable program, in bytes. -/
def Config.romMax : Nat := Config.memSize - Config.loadBase

/-- `FONT_LEN` (R4): the font is the cells `0` to `79`, `FONT_BASE` being `0`. -/
def Config.fontLen : Nat := 80

/-- `FONT[0..79]` (R4, R25): an OPEN parameter, a free value (DESIGN CHOICE, safe, log 4). -/
opaque Config.font : Nat → Byte

/-- The default the spec lists for the parameter `FONT` (R25), glyph by glyph. The model's `FONT` is the free
`Config.font`; this table serves the spec's test vectors that read font bytes (DESIGN CHOICE, safe, log 4). -/
def Config.defaultFont : List Byte :=
  [0xF0, 0x90, 0x90, 0x90, 0xF0,  0x20, 0x60, 0x20, 0x20, 0x70,
   0xF0, 0x10, 0xF0, 0x80, 0xF0,  0xF0, 0x10, 0xF0, 0x10, 0xF0,
   0x90, 0x90, 0xF0, 0x10, 0x10,  0xF0, 0x80, 0xF0, 0x10, 0xF0,
   0xF0, 0x80, 0xF0, 0x90, 0xF0,  0xF0, 0x10, 0x20, 0x40, 0x40] ++
  [0xF0, 0x90, 0xF0, 0x90, 0xF0,  0xF0, 0x90, 0xF0, 0x10, 0xF0,
   0xF0, 0x90, 0xF0, 0x90, 0x90,  0xE0, 0x90, 0xE0, 0x90, 0xE0,
   0xF0, 0x80, 0x80, 0x80, 0xF0,  0xE0, 0x90, 0x90, 0x90, 0xE0,
   0xF0, 0x80, 0xF0, 0x80, 0xF0,  0xF0, 0x80, 0xF0, 0x80, 0x80]

/-- `MEM_INIT` (R4, R212): the byte a cell outside the font holds after the `epoch`-th reset, a free value: fixed for a
run, free across runs (DESIGN CHOICE, safe, log 3). -/
opaque Config.memInit : (epoch : Nat) → (addr : Nat) → Byte

/-- One less than a finite `STACK_DEPTH`, or `none` for `unbounded`: a free value. -/
opaque Config.stackDepthPred : Option Nat

/-- `STACK_DEPTH` (R4): `none` for `unbounded`, else a number that is at least 1 (DEDUCED, safe, log 9). -/
def Config.stackDepth : Option Nat := Config.stackDepthPred.map (· + 1)

/-- Whether a stack of depth `d` is at `STACK_DEPTH` (R19). An empty stack never is, `STACK_DEPTH` being at least 1. -/
def Config.stackFull : (d : Nat) → Bool
  | 0 => false
  | d + 1 => Config.stackDepth == some (d + 1)

/-- One less than `TICK_DIV`: a free value. -/
opaque Config.tickDivPred : Nat

/-- `TICK_DIV` (R4, R184): clock periods per tick, at least 1 (DEDUCED, safe, log 6). -/
def Config.tickDiv : Nat := Config.tickDivPred + 1

/-- `TICK_HZ` (R4). -/
def Config.tickHz : Nat := 60

/-- `CLK_HZ` (R4): `TICK_DIV = CLK_HZ / 60`. No rule reads it. -/
def Config.clkHz : Nat := Config.tickHz * Config.tickDiv

/-- The prescaler's phase at a `Start` that falls on the counter value `now` (R184): a free value (DESIGN CHOICE, safe,
log 6). -/
opaque Config.startPhase : (now : Nat) → Nat

/-- The move that comes next when nothing is settled (R187), at the counter value `now`: a free value (DESIGN CHOICE, safe,
log 1). -/
opaque Config.arrival : (now : Nat) → Event

/-- The answers standing at the core's inputs before any turn: a free value (DESIGN CHOICE, safe, log 2). -/
opaque Config.resetAnswers : Answers

end Sys2Proof
end

