-- ==== Sys2Proof/Machine/State.lean ====
section
/-! DEFINITION. The state of the machine (R31, R32, R189), its reset value (R31, R210), and the reasons a step can stop. -/

namespace Sys2Proof.Machine

/-- The run mode (R26). -/
inductive Mode where
  | idle
  | running
  | waitKey
  | stopped
  | halted
  deriving DecidableEq, Repr

/-- The cause recorded at fault entry (R27, R171). -/
inductive FaultCode where
  /-- code 0, no fault recorded -/
  | noFault
  /-- code 1, `IllegalInstructionError` (R172) -/
  | illegalInstruction
  /-- code 2, `OutOfBoundsError` (R173) -/
  | outOfBounds
  /-- code 3, `StackUnderflowError` (R174) -/
  | stackUnderflow
  /-- code 4, `StackOverflowError` (R175) -/
  | stackOverflow
  /-- code 5, `CapacityError` (R177) -/
  | capacity
  deriving DecidableEq, Repr

/-- A request the core issues to the environment (R190 to R195). -/
inductive Request where
  /-- `disp_clear` (R190) -/
  | clear
  /-- `disp_draw` with `n`, the rows in rising address order and the unreduced coordinates (R191) -/
  | draw (n : BitVec 4) (rows : List Byte) (cx cy : Byte)
  /-- `key_query` with the whole byte `kq` (R192) -/
  | keyQuery (kq : Byte)
  /-- `key_wait`, outstanding while the mode is `WAIT_KEY` (R193) -/
  | keyWait
  /-- `render` (R195) -/
  | render
  deriving DecidableEq, Repr

/-- Memory as the cells written since reset, addresses strictly rising (R21; DESIGN CHOICE, safe, log 3). -/
abbrev Memory := List Host.Cell

/-- The state. The first twelve fields are the spec's (R31), the thirteenth is
the spec's wait of R181; the last six are the model's own: inputs and outputs of steps
held as plain data (R189), and the counters that free values are applied to. -/
structure State where
  /-- `V[0]` to `V[15]` (R10); `V[0xF]` is also the flag register (R11) -/
  v : Vector Byte 16
  /-- `I` (R12) -/
  i : Word
  /-- `PC` (R13) -/
  pc : Word
  /-- `DT` (R16) -/
  dt : Byte
  /-- `ST` (R17) -/
  st : Byte
  /-- the call stack, the most recently pushed address first (R18) -/
  stack : List Word
  /-- `Mem`: the cells written since reset (R21) -/
  mem : Memory
  /-- `mode` (R26) -/
  mode : Mode
  /-- `fault_code` (R27) -/
  faultCode : FaultCode
  /-- `fault_info` (R27) -/
  faultInfo : Info
  /-- `wait_x` (R28); outside `WAIT_KEY` it keeps the last `x`, which the spec leaves open (DESIGN CHOICE, unsafe, log 16) -/
  waitX : Reg
  /-- the prescaler count (R30, R184) -/
  prescaler : Nat
  /-- whether a `render` request is outstanding: step 2 of the run loop, in which the core waits until the environment
  accepts (R181, R195; DEDUCED, safe, log 15) -/
  renderPending : Bool
  /-- model's own: the level of the input `exit_req` (R194; DESIGN CHOICE, unsafe, log 7) -/
  exitReq : Bool
  /-- model's own: the environment's answers to the present core turn (R189; DESIGN CHOICE, safe, log 2) -/
  answers : Answers
  /-- model's own: the requests issued since reset, newest first (R190 to R195; DESIGN CHOICE, safe, log 8) -/
  out : List Request
  /-- model's own: how many resets have happened, for `MEM_INIT` (R212; DESIGN CHOICE, safe, log 3) -/
  epoch : Nat
  /-- model's own: the moves already settled to come next, oldest first (R187; DESIGN CHOICE, safe, log 1) -/
  inbox : List Event
  /-- model's own: how many moves were taken, for the free values (DESIGN CHOICE, safe, log 1) -/
  now : Nat
  deriving DecidableEq, Repr

/-- No step of this machine stops with a fault outside the machine's own state: every fault of the spec is recorded in
`fault_code`, `fault_info` and `mode` (R170, R176), which is a next state. So no one raises a `Fault`, and there is nothing
unsafe in it (DESIGN CHOICE, safe, log 13). -/
inductive Fault where
  deriving DecidableEq, Repr

/-- An instruction that has no meaning. -/
inductive Refusal where
  /-- Raised by an arm of `exec` for an instruction that has no meaning yet; safe. No arm of this model raises it. -/
  | notModelled (mnemonic : String)
  deriving DecidableEq, Repr

/-- The outcome of a step or of an instruction. -/
abbrev Result := Host.Outcome State Fault Refusal

/-- The state after reset (R31, R210). `waitX` and `prescaler` have no reset value in the spec: 0 here
(DESIGN CHOICE, unsafe, log 5 and log 6). Of the model's own fields, `answers` is a free value (DESIGN CHOICE, safe, log 2),
`exitReq` is low (DESIGN CHOICE, unsafe, log 7), and the rest are empty or 0 (DESIGN CHOICE, safe, log 1, log 3, log 8). -/
def State.reset : State where
  v := Vector.replicate 16 0
  i := 0
  pc := 0x200
  dt := 0
  st := 0
  stack := []
  mem := []
  mode := .idle
  faultCode := .noFault
  faultInfo := 0
  waitX := 0
  prescaler := 0
  renderPending := false
  exitReq := false
  answers := Config.resetAnswers
  out := []
  epoch := 0
  inbox := []
  now := 0

end Sys2Proof.Machine
end

