-- ==== Sys2Proof/Machine/Ops.lean ====
section
/-! DEFINITION. The named operations over registers, memory, the call stack and the timers (R6), and fault entry (R176). -/

namespace Sys2Proof.Machine

/-! ### Registers -/

/-- `V[x]` (R6, R10). -/
def getV (s : State) (x : Reg) : Byte := s.v[x]

/-- `V[x] <- b` (R6, R10). -/
def setV (x : Reg) (b : Byte) (s : State) : State := { s with v := s.v.set x b }

/-- `V[0]` to `V[15]` at once. -/
def setRegs (v : Vector Byte 16) (s : State) : State := { s with v := v }

/-- `I <- w` (R12). -/
def setI (w : Word) (s : State) : State := { s with i := w }

/-- `PC <- w` (R13). -/
def setPc (w : Word) (s : State) : State := { s with pc := w }

/-- The number of the flag register `V[0xF]` (R11). -/
def flagReg : Reg := 15

/-- `V[0xF] <- b`, as the side effect of R11. -/
def setFlag (b : Byte) (s : State) : State := setV flagReg b s

/-! ### Requests to the environment -/

/-- Issues a request (R190 to R195). -/
def emit (r : Request) (s : State) : State := { s with out := r :: s.out }

/-! ### Fault entry (R176) -/

/-- The number of a fault cause (R171). -/
def FaultCode.number : FaultCode → Nat
  | .noFault => 0
  | .illegalInstruction => 1
  | .outOfBounds => 2
  | .stackUnderflow => 3
  | .stackOverflow => 4
  | .capacity => 5

/-- `raise F(info)`: the cause and the info word are recorded and the core halts, nothing else (R176). There is no return from
a fault (R179): the only way out of `HALTED` is reset. -/
def raiseFault (code : FaultCode) (info : Info) (s : State) : State :=
  { s with faultCode := code, faultInfo := info, mode := .halted }

/-! ### Memory (R21, R40 to R46) -/

/-- What the list says of an address: the byte last written since reset, or nothing. -/
def Memory.cell : Memory → Nat → Option Byte
  | [], _ => none
  | (b, w) :: rest, a => if a = b then some w else Memory.cell rest a

/-- Writes a cell of the list, keeping the addresses strictly rising. -/
def Memory.write : Memory → Nat → Byte → Memory
  | [], a, v => [(a, v)]
  | (b, w) :: rest, a, v =>
    if a < b then (a, v) :: (b, w) :: rest
    else if a = b then (a, v) :: rest
    else (b, w) :: Memory.write rest a v

/-- Writes consecutive cells at rising addresses. -/
def Memory.writeAll : Memory → Nat → List Byte → Memory
  | m, _, [] => m
  | m, a, v :: vs => Memory.writeAll (Memory.write m a v) (a + 1) vs

/-- The canonical form: addresses strictly rising, all of them cells of the hardware (R21, R40; DESIGN CHOICE, safe, log 3). -/
abbrev Memory.wf (m : Memory) : Prop :=
  m.Pairwise (fun c d => c.1 < d.1) ∧ ∀ c ∈ m, c.1 < Config.memSize

/-- What a cell that nothing has written since reset reads as: the font below `FONT_LEN`, `MEM_INIT` above (R22, R31, R210,
R212). -/
def unlisted (epoch a : Nat) : Byte :=
  if a < Config.fontLen then Config.font a else Config.memInit epoch a

/-- `Mem[a]` (R6). -/
def readByte (s : State) (a : Nat) : Byte := (s.mem.cell a).getD (unlisted s.epoch a)

/-- The bytes at `len` consecutive addresses from `a`, in rising order. -/
def readBytes (s : State) (a len : Nat) : List Byte := (List.range len).map fun k => readByte s (a + k)

/-- `Mem[a] <- b_0, Mem[a + 1] <- b_1, ...` in rising order. -/
def storeBytes (a : Nat) (bytes : List Byte) (s : State) : State := { s with mem := s.mem.writeAll a bytes }

/-- Whether an access of `len` bytes from `a` stays in 0..4095. No address wraps, and no byte is no access (R44, R46). -/
def accessInBounds (a len : Nat) : Bool := len == 0 || decide (a + len - 1 < Config.memSize)

/-- `MemRead(a, 2)` (R42), or nothing where it would raise. -/
def readWord (s : State) (a : Nat) : Option Word :=
  if accessInBounds a 2 then some (wordOfBytes (readByte s a) (readByte s (a + 1))) else none

/-- The base address of a data access: the exact value of `I` (R121). -/
def dataBase (s : State) : Nat := s.i.toNat

/-- The range check of a data access of `len` bytes from `I`: it comes before any effect, and a failing one raises
`OutOfBoundsError` with the last address of the range (R46, R121). -/
def checkedAccess (len : Nat) (s : State) (effect : State → State) : State :=
  if accessInBounds (dataBase s) len then effect s
  else raiseFault .outOfBounds (BitVec.ofNat 17 (dataBase s + len - 1)) s

/-! ### The call stack (R18 to R20) -/

/-- `Push(w)` and what follows it; a full stack raises `StackOverflowError(w)` and is left alone (R19). -/
def push (w : Word) (s : State) (effect : State → State) : State :=
  if Config.stackFull s.stack.length then raiseFault .stackOverflow (w.setWidth 17) s
  else effect { s with stack := w :: s.stack }

/-- `Pop()` and what follows it; an empty stack raises `StackUnderflowError()` and is left alone (R20). -/
def pop (s : State) (effect : Word → State → State) : State :=
  match s.stack with
  | [] => raiseFault .stackUnderflow 0 s
  | w :: rest => effect w { s with stack := rest }

/-! ### The timers (R186) -/

/-- `TimerRead(DT)`. -/
def timerReadDt (s : State) : Byte := s.dt

/-- `TimerWrite(DT, b)`. -/
def timerWriteDt (b : Byte) (s : State) : State := { s with dt := b }

/-- `TimerWrite(ST, b)`. -/
def timerWriteSt (b : Byte) (s : State) : State := { s with st := b }

/-- One tick: each timer above 0 falls by 1, as one action (R185). -/
def timerTick (s : State) : State :=
  { s with dt := if s.dt = 0 then 0 else s.dt - 1, st := if s.st = 0 then 0 else s.st - 1 }

end Sys2Proof.Machine
end

