-- ==== Sys2Proof/Machine/Operands.lean ====
section
/-! DEFINITION. The operand forms (R65, R121) and what the instruction forms share. -/

namespace Sys2Proof.Machine

/-- `zext_16(nnn)` (R65). -/
def addrOperand (nnn : BitVec 12) : Word := nnn.setWidth 16

/-- `zext_16(V[x])` (R6). -/
def wordOperand (s : State) (x : Reg) : Word := (getV s x).setWidth 16

/-- `zext_8` of a one-bit answer (R152). -/
def bitByte (b : Bool) : Byte := if b then 1 else 0

/-- The registers `V[0]` to `V[x]` in rising order (R125). -/
def regsUpTo (s : State) (x : Reg) : List Byte := s.v.toList.take (x.val + 1)

/-- `V[k] <- b_0, V[k + 1] <- b_1, ...` in rising order (R126). -/
def loadRegs : (bytes : List Byte) → (k : Nat) → Vector Byte 16 → Vector Byte 16
  | [], _, v => v
  | b :: bytes, k, v => loadRegs bytes (k + 1) (v.setIfInBounds k b)

/-- The decimal digits of a byte: hundreds, tens, units, each a number (R124). -/
def decimalDigits (b : Byte) : List Byte :=
  [BitVec.ofNat 8 (b.toNat / 100), BitVec.ofNat 8 (b.toNat / 10 % 10), BitVec.ofNat 8 (b.toNat % 10)]

/-- A skip adds 2 to the already advanced `PC` when its condition holds (R87; DEDUCED, safe, log 11). -/
def skipIf (taken : Bool) (s : State) : State := if taken then setPc (s.pc + 2) s else s

end Sys2Proof.Machine
end

