-- ==== Sys2Proof/Machine/Flags.lean ====
section
/-! DEFINITION. The flag computations (R111) and the order of the two statements of a flag-writing instruction (R7, R112). -/

namespace Sys2Proof.Machine

/-- The carry out of bit 7 of `a + b` (R106). -/
def carryFlag (a b : Byte) : Byte := if a.toNat + b.toNat > 255 then 1 else 0

/-- Whether `a` is strictly greater than `b` (R107, R109, R111). -/
def greaterFlag (a b : Byte) : Byte := if a.toNat > b.toNat then 1 else 0

/-- Bit 0, the bit a right shift moves out (R108). -/
def lowBitFlag (a : Byte) : Byte := a &&& 1

/-- Bit 7, the bit a left shift moves out (R110). -/
def highBitFlag (a : Byte) : Byte := (a >>> 7) &&& 1

/-- The two statements in their order: the flag first, then `V[x]` from the registers as the flag statement left them (R7,
R112). -/
def flagThenResult (flag : State → Byte) (x : Reg) (result : State → Byte) (s : State) : State :=
  let s := setFlag (flag s) s
  setV x (result s) s

end Sys2Proof.Machine
end

