-- ==== Sys2Proof/Machine/Alu.lean ====
section
/-! DEFINITION. Register load, arithmetic and logic (41_alu.md, R100 to R112). Results are reduced modulo 256 (R111), which
is the arithmetic of `Byte`. -/

namespace Sys2Proof.Machine

/-- `6xkk`, `LD Vx, kk` (R100). -/
def execLdVxKk (x : Reg) (kk : Byte) (s : State) : Result := .next (setV x kk s)

/-- `7xkk`, `ADD Vx, kk` (R101): no flag. -/
def execAddVxKk (x : Reg) (kk : Byte) (s : State) : Result := .next (setV x (getV s x + kk) s)

/-- `8xy0`, `LD Vx, Vy` (R102). -/
def execLdVxVy (x y : Reg) (s : State) : Result := .next (setV x (getV s y) s)

/-- `8xy1`, `OR Vx, Vy` (R103): no flag. -/
def execOrVxVy (x y : Reg) (s : State) : Result := .next (setV x (getV s x ||| getV s y) s)

/-- `8xy2`, `AND Vx, Vy` (R104): no flag. -/
def execAndVxVy (x y : Reg) (s : State) : Result := .next (setV x (getV s x &&& getV s y) s)

/-- `8xy3`, `XOR Vx, Vy` (R105): no flag. -/
def execXorVxVy (x y : Reg) (s : State) : Result := .next (setV x (getV s x ^^^ getV s y) s)

/-- `8xy4`, `ADD Vx, Vy` (R106). -/
def execAddVxVy (x y : Reg) (s : State) : Result :=
  .next (flagThenResult (fun s => carryFlag (getV s x) (getV s y)) x (fun s => getV s x + getV s y) s)

/-- `8xy5`, `SUB Vx, Vy` (R107). -/
def execSubVxVy (x y : Reg) (s : State) : Result :=
  .next (flagThenResult (fun s => greaterFlag (getV s x) (getV s y)) x (fun s => getV s x - getV s y) s)

/-- `8xy6`, `SHR Vx` (R108): the `y` nibble is ignored. -/
def execShrVx (x : Reg) (s : State) : Result :=
  .next (flagThenResult (fun s => lowBitFlag (getV s x)) x (fun s => getV s x >>> 1) s)

/-- `8xy7`, `SUBN Vx, Vy` (R109). -/
def execSubnVxVy (x y : Reg) (s : State) : Result :=
  .next (flagThenResult (fun s => greaterFlag (getV s y) (getV s x)) x (fun s => getV s y - getV s x) s)

/-- `8xyE`, `SHL Vx` (R110): the `y` nibble is ignored. -/
def execShlVx (x : Reg) (s : State) : Result :=
  .next (flagThenResult (fun s => highBitFlag (getV s x)) x (fun s => getV s x <<< 1) s)

end Sys2Proof.Machine
end

