-- ==== Sys2Proof/Machine/ControlFlow.lean ====
section
/-! DEFINITION. The control-flow instructions (40_control_flow.md, R80 to R88). Each runs with `PC = A + 2` (R63). -/

namespace Sys2Proof.Machine

/-- `00EE`, `RET` (R80): the popped value goes to `PC` as it is. -/
def execRet (s : State) : Result := .next (pop s fun t s => setPc t s)

/-- `1nnn`, `JP nnn` (R81). -/
def execJp (nnn : BitVec 12) (s : State) : Result := .next (setPc (addrOperand nnn) s)

/-- `2nnn`, `CALL nnn` (R82): pushes the address of the instruction after the call. -/
def execCall (nnn : BitVec 12) (s : State) : Result := .next (push s.pc s fun s => setPc (addrOperand nnn) s)

/-- `3xkk`, `SE Vx, kk` (R83). -/
def execSeVxKk (x : Reg) (kk : Byte) (s : State) : Result := .next (skipIf (getV s x == kk) s)

/-- `4xkk`, `SNE Vx, kk` (R84). -/
def execSneVxKk (x : Reg) (kk : Byte) (s : State) : Result := .next (skipIf (getV s x != kk) s)

/-- `5xyN`, `SE Vx, Vy` (R85). -/
def execSeVxVy (x y : Reg) (s : State) : Result := .next (skipIf (getV s x == getV s y) s)

/-- `9xyN`, `SNE Vx, Vy` (R86). -/
def execSneVxVy (x y : Reg) (s : State) : Result := .next (skipIf (getV s x != getV s y) s)

/-- `Bnnn`, `JP V0, nnn` (R88): the register is always `V[0]`; the sum is at most `0x10FE` and is not reduced. -/
def execJpV0Nnn (nnn : BitVec 12) (s : State) : Result := .next (setPc (wordOperand s 0 + addrOperand nnn) s)

end Sys2Proof.Machine
end

