-- ==== Sys2Proof/Machine/DisplayInput.lean ====
section
/-! DEFINITION. Display and keypad (44_display_input.md, R150 to R160). The answers are inputs of the turn (R153, R156). -/

namespace Sys2Proof.Machine

/-- `00E0`, `CLS` (R150): one request and nothing else. -/
def execCls (s : State) : Result := .next (emit .clear s)

/-- `Dxyn`, `DRW Vx, Vy, n` (R152): range check, rows and coordinates, request, then `V[0xF]` from the answer. -/
def execDrwVxVyN (x y : Reg) (n : BitVec 4) (s : State) : Result :=
  .next (checkedAccess n.toNat s fun s =>
    setFlag (bitByte s.answers.collision)
      (emit (.draw n (readBytes s (dataBase s) n.toNat) (getV s x) (getV s y)) s))

/-- `Ex9E`, `SKP Vx` (R154): the query carries the whole byte (R156). -/
def execSkpVx (x : Reg) (s : State) : Result :=
  .next (skipIf s.answers.keyDown (emit (.keyQuery (getV s x)) s))

/-- `ExA1`, `SKNP Vx` (R155). -/
def execSknpVx (x : Reg) (s : State) : Result :=
  .next (skipIf (!s.answers.keyDown) (emit (.keyQuery (getV s x)) s))

/-- `Fx0A`, `LD Vx, K`, the issue (R157): the wait request goes out and the core waits. The completion is `answerKey`
(R158). -/
def execLdVxK (x : Reg) (s : State) : Result :=
  .next { emit .keyWait s with waitX := x, mode := .waitKey }

end Sys2Proof.Machine
end

