-- ==== Sys2Proof/Machine/IndexMemory.lean ====
section
/-! DEFINITION. Address register and memory (42_index_memory.md, R120 to R127). The base register `I` is never changed by an
access (R121). -/

namespace Sys2Proof.Machine

/-- `Annn`, `LD I, nnn` (R120). -/
def execLdINnn (nnn : BitVec 12) (s : State) : Result := .next (setI (addrOperand nnn) s)

/-- `Fx1E`, `ADD I, Vx` (R122): modulo 65536, no flag. -/
def execAddIVx (x : Reg) (s : State) : Result := .next (setI (s.i + wordOperand s x) s)

/-- `Fx29`, `LD F, Vx` (R123): the whole byte times 5. -/
def execLdFVx (x : Reg) (s : State) : Result := .next (setI (wordOperand s x * 5) s)

/-- `Fx33`, `LD B, Vx` (R124). -/
def execLdBVx (x : Reg) (s : State) : Result :=
  .next (checkedAccess 3 s fun s => storeBytes (dataBase s) (decimalDigits (getV s x)) s)

/-- `Fx55`, `LD [I], Vx` (R125). -/
def execLdMemIVx (x : Reg) (s : State) : Result :=
  .next (checkedAccess (x.val + 1) s fun s => storeBytes (dataBase s) (regsUpTo s x) s)

/-- `Fx65`, `LD Vx, [I]` (R126). -/
def execLdVxMemI (x : Reg) (s : State) : Result :=
  .next (checkedAccess (x.val + 1) s fun s => setRegs (loadRegs (readBytes s (dataBase s) (x.val + 1)) 0 s.v) s)

end Sys2Proof.Machine
end

