-- ==== Sys2Proof/Machine/RandomTimer.lean ====
section
/-! DEFINITION. Random number and timers (43_random_timer.md, R140 to R145). -/

namespace Sys2Proof.Machine

/-- `Cxkk`, `RND Vx, kk` (R140): the random byte is an input of the turn (R141, R196). -/
def execRndVxKk (x : Reg) (kk : Byte) (s : State) : Result := .next (setV x (s.answers.rnd &&& kk) s)

/-- `Fx07`, `LD Vx, DT` (R142). -/
def execLdVxDt (x : Reg) (s : State) : Result := .next (setV x (timerReadDt s) s)

/-- `Fx15`, `LD DT, Vx` (R143). -/
def execLdDtVx (x : Reg) (s : State) : Result := .next (timerWriteDt (getV s x) s)

/-- `Fx18`, `LD ST, Vx` (R144). -/
def execLdStVx (x : Reg) (s : State) : Result := .next (timerWriteSt (getV s x) s)

end Sys2Proof.Machine
end

