-- ==== Sys2Proof/Machine/Environment.lean ====
section
/-! DEFINITION. What happens to the core from outside an instruction: the timer engine (R183 to R185), the host's actions
(R197, R210 to R216), the key answer (R158) and steps 2 and 3 of a run-loop cycle (R181). -/

namespace Sys2Proof.Machine

/-- `timer_run` (R183): the timer engine is enabled exactly in `RUNNING` and `WAIT_KEY`. -/
def timerRun (s : State) : Bool := s.mode == .running || s.mode == .waitKey

/-- The output `sound_on` (R198). -/
def soundOn (s : State) : Bool := s.st != 0

/-- One clock period: while enabled the prescaler counts, and when it has counted `TICK_DIV` periods it wraps and the timers
tick (R184). While it is disabled the count is kept, which the spec leaves open (93 U16; DESIGN CHOICE, unsafe, log 6). -/
def clockPeriod (s : State) : State :=
  if timerRun s then
    if s.prescaler + 1 = Config.tickDiv then timerTick { s with prescaler := 0 }
    else { s with prescaler := s.prescaler + 1 }
  else s

/-- `Reset`, in every mode (R210): the state after reset. Cells outside the font are unknown again (R211), so the reset count
rises; what stands outside the core (the level of `exit_req`, the moves still to come) is no state of the core and stays. -/
def hostReset (s : State) : State :=
  { State.reset with
    exitReq := s.exitReq, answers := s.answers, epoch := s.epoch + 1, inbox := s.inbox, now := s.now }

/-- `Load(bytes)`, accepted in `IDLE` only (R180, R213): too long a program is a `CapacityError` and leaves memory alone
(R177). -/
def hostLoad (bytes : List Byte) (s : State) : State :=
  if s.mode = .idle then
    if Config.loadBase + bytes.length > Config.memSize then raiseFault .capacity 0 s
    else storeBytes Config.loadBase bytes s
  else s

/-- `Start`, accepted in `IDLE` only (R180, R216). Whether it clears the prescaler is open: its phase is a free value (R184;
DESIGN CHOICE, safe, log 6). -/
def hostStart (s : State) : State :=
  if s.mode = .idle then
    { s with mode := .running, prescaler := Config.startPhase s.now % Config.tickDiv }
  else s

/-- Step 2 of the run loop begins (R181): the render request goes out, and the core waits for its acceptance. It follows a
completed instruction: not one that faulted, nor `Fx0A` while it waits. -/
def requestRender (s : State) : State :=
  match s.mode with
  | .running => { emit .render s with renderPending := true }
  | .idle | .waitKey | .stopped | .halted => s

/-- Step 3 of the run loop (R181, R194): `exit_req` is sampled, here and nowhere else. -/
def exitCheck (s : State) : State := if s.exitReq then { s with mode := .stopped } else s

/-- The environment accepts the render request: step 2 ends and step 3 follows (R181). With no request outstanding nothing
happens. Any number of moves may come between the request and this one (R181, R187). -/
def acceptRender (s : State) : State :=
  if s.mode = .running ∧ s.renderPending = true then exitCheck { s with renderPending := false } else s

/-- The answer `k` to `Fx0A` (R158, R159), which continues with step 2 of its run-loop cycle (R181). With no wait outstanding
it is ignored (R197). That `wait_x` keeps its value when the wait has ended is the model's choice: the spec leaves it open
(R28, 93 U16; DESIGN CHOICE, unsafe, log 16). -/
def answerKey (k : Byte) (s : State) : State :=
  if s.mode = .waitKey then requestRender { setV s.waitX k s with mode := .running } else s

/-- The environment drives `exit_req` (R194). -/
def driveExitReq (level : Bool) (s : State) : State := { s with exitReq := level }

end Sys2Proof.Machine
end

