-- ==== Sys2Proof/Machine/RunLoop.lean ====
section
/-! DEFINITION. One core turn (R63, R64, R181) and one move of the whole (R187). -/

namespace Sys2Proof.Machine

/-- The fetch stage (R63): the word at `PC` with `PC` advanced by 2, or, where `PC + 1` is beyond memory, the halted state with
`PC` as it was (R45). -/
def fetch (s : State) : Except State (Word × State) :=
  match readWord s s.pc.toNat with
  | some w => .ok (w, setPc (s.pc + 2) s)
  | none => .error (raiseFault .outOfBounds (s.pc.setWidth 17) s)

/-- What stands around the execute stage: step 2 of the run-loop cycle begins (R181). -/
def finishCycle : Result → Result
  | .next s => .next (requestRender s)
  | .fault r => .fault r
  | .refused r => .refused r

/-- The decode and execute stages on a fetched word, `PC` already advanced: an illegal word raises
`IllegalInstructionError` (R64, R69). -/
def runWord (w : Word) (s : State) : Result :=
  match decodeWord w with
  | .ok i => finishCycle (exec i s)
  | .error _ => .next (raiseFault .illegalInstruction (w.setWidth 17) s)

/-- Step 1 of a run-loop cycle (R181), fetch, decode, execute, and the render request that begins step 2. -/
def runCycle (s : State) : Result :=
  match fetch s with
  | .ok (w, s) => runWord w s
  | .error s => .next s

/-- The core's turn: it executes instructions in `RUNNING` only (R180), and not while a render request is outstanding
(R181); otherwise it does nothing. -/
def coreTurn (s : State) : Result :=
  match s.mode with
  | .running => if s.renderPending then .next s else runCycle s
  | .idle | .waitKey | .stopped | .halted => .next s

/-- The effect of one move (R180, R187, R197). -/
def act : Event → State → Result
  | .reset, s => .next (hostReset s)
  | .load bytes, s => .next (hostLoad bytes s)
  | .start, s => .next (hostStart s)
  | .clock, s => .next (clockPeriod s)
  | .exitReq level, s => .next (driveExitReq level s)
  | .keyEvent k, s => .next (answerKey k s)
  | .renderAccepted, s => .next (acceptRender s)
  | .core answers, s => coreTurn { s with answers := answers }

/-- The move that comes next: the oldest one that is settled, else a free value (R187; DESIGN CHOICE, safe, log 1). -/
def nextEvent (s : State) : Event :=
  match s.inbox with
  | [] => Config.arrival s.now
  | e :: _ => e

/-- The move is taken from the inbox and counted. -/
def takeEvent (s : State) : State := { s with inbox := s.inbox.tail, now := s.now + 1 }

/-- Places an instruction word where the next fetch reads it, high byte first (R42), if there is such a place (R45). -/
def placeWord (w : Word) (s : State) : State :=
  if accessInBounds s.pc.toNat 2 then storeBytes s.pc.toNat [w.extractLsb' 8 8, w.extractLsb' 0 8] s else s

/-- The machine as it stands when the core is about to fetch: running, no render request outstanding, the core's turn the
next move, with the answers that stand at its inputs. -/
def readyToFetch (s : State) : State :=
  { s with mode := .running, renderPending := false, inbox := .core s.answers :: s.inbox }

end Sys2Proof.Machine
end

