-- ==== Sys2Proof/Machine/Step.lean ====
section
/-! DEFINITION. One step: one move of the core, the timer engine or the environment (R187, R189). -/

namespace Sys2Proof.Machine

/-- One step (R187): the next move is taken and has its effect. -/
def step (s : State) : Host.Outcome State Fault Refusal := act (nextEvent s) (takeEvent s)

/-- The state with an instruction word of `nbits` bits placed where `step` fetches next, and all that the very next step needs
to run it: the mode a `Start` leads to and the core's turn as the next move. It stands for the host's `Load` and `Start`
(R213, R216; DESIGN CHOICE, safe, log 12). -/
def State.withFetchWord (s : State) (nbits w : Nat) : State :=
  readyToFetch (placeWord (BitVec.ofNat 16 (w % 2 ^ nbits)) s)

end Sys2Proof.Machine
end

