-- ==== Sys2Proof/Safety.lean ====
section
/-! DEFINITION. What claims are stated in: the parts of a state and what a frame leaves alone, fault entry seen from outside,
the mode transitions (R180), and the invariant that every step keeps. -/

namespace Sys2Proof.Machine

/-- A part of the state that a frame can name: every field, the registers and the memory cells one by one. -/
inductive Part where
  | v (x : Reg)
  | i
  | pc
  | dt
  | st
  | stack
  | mem (a : Nat)
  | mode
  | faultCode
  | faultInfo
  | waitX
  | prescaler
  | renderPending
  | exitReq
  | answers
  | out
  | epoch
  | inbox
  | now
  deriving DecidableEq, Repr

/-- The part is the same in both states; a memory cell is the same when a read of it gives the same byte. -/
def Part.same (s t : State) : Part → Prop
  | .v x => getV t x = getV s x
  | .i => t.i = s.i
  | .pc => t.pc = s.pc
  | .dt => t.dt = s.dt
  | .st => t.st = s.st
  | .stack => t.stack = s.stack
  | .mem a => readByte t a = readByte s a
  | .mode => t.mode = s.mode
  | .faultCode => t.faultCode = s.faultCode
  | .faultInfo => t.faultInfo = s.faultInfo
  | .waitX => t.waitX = s.waitX
  | .prescaler => t.prescaler = s.prescaler
  | .renderPending => t.renderPending = s.renderPending
  | .exitReq => t.exitReq = s.exitReq
  | .answers => t.answers = s.answers
  | .out => t.out = s.out
  | .epoch => t.epoch = s.epoch
  | .inbox => t.inbox = s.inbox
  | .now => t.now = s.now

/-- From `s` to `t` nothing changes but, at most, the parts named. -/
def Frame (changed : Part → Prop) (s t : State) : Prop := ∀ p, ¬ changed p → p.same s t

/-- The parts of a list, as what a frame names. -/
def among (ps : List Part) (p : Part) : Prop := p ∈ ps

/-- The registers `V[0]` to `V[x]`. -/
def regsTo (x : Reg) (p : Part) : Prop := ∃ k : Reg, k ≤ x ∧ p = .v k

/-- The `len` memory cells from address `a`. -/
def cellsFrom (a len : Nat) (p : Part) : Prop := ∃ k, k < len ∧ p = .mem (a + k)

/-- Fault entry (R176): the cause and the info word are recorded, the core is halted, and nothing else has changed. -/
def FaultTaken (code : FaultCode) (info : Nat) (s t : State) : Prop :=
  t.mode = .halted ∧ t.faultCode = code ∧ t.faultInfo.toNat = info ∧
    Frame (among [.mode, .faultCode, .faultInfo]) s t

/-- The state from which the core takes its turn: the move taken, the answers of the turn at the core's inputs. -/
def turnState (a : Answers) (s : State) : State := { takeEvent s with answers := a }

/-- The core's turn comes next, with the answers `a`, and it will execute an instruction. -/
def CoreRuns (a : Answers) (s : State) : Prop :=
  nextEvent s = .core a ∧ s.mode = .running ∧ s.renderPending = false

/-- The state in which a fetched instruction executes: the core's turn has begun and `PC` is advanced (R63). -/
def executeState (a : Answers) (s : State) : State := setPc (s.pc + 2) (turnState a s)

/-- A skip (R87): the already advanced `PC` gains 2 when the skip is taken, exactly, from every value an executing instruction
can see, and is left alone otherwise. -/
def SkipTaken (taken : Prop) (s t : State) : Prop :=
  (taken → t.pc = s.pc + 2 ∧ (s.pc.toNat ≤ 0x1000 → t.pc.toNat = s.pc.toNat + 2)) ∧ (¬ taken → t.pc = s.pc)

/-- The mode changes of the run-mode machine (R180), by the mode before, the move and the level of `exit_req`. A row whose
event goes on with 'then render' is taken here as two moves, in `RUNNING` between them, the exit check on the acceptance of
the render request: R180 has no such rows, they are the model's reading of R158 and R181 (DEDUCED, safe, log 15). -/
inductive ModeChange : Mode → Event → (exitReq : Bool) → Mode → Prop where
  /-- a reset leads to `IDLE` from every mode -/
  | reset (m : Mode) (x : Bool) : ModeChange m .reset x .idle
  /-- a load of more than `ROM_MAX` bytes in `IDLE` -/
  | loadTooLong (bytes : List Byte) (x : Bool) : bytes.length > Config.romMax →
      ModeChange .idle (.load bytes) x .halted
  /-- `Start` in `IDLE` -/
  | start (x : Bool) : ModeChange .idle .start x .running
  /-- the render request of a completed instruction is accepted, and the exit check finds a request (log 15) -/
  | exit : ModeChange .running .renderAccepted true .stopped
  /-- `Fx0A` begins to wait -/
  | wait (a : Answers) (x : Bool) : ModeChange .running (.core a) x .waitKey
  /-- the instruction, or its fetch or decoding, faults -/
  | fault (a : Answers) (x : Bool) : ModeChange .running (.core a) x .halted
  /-- the key answer arrives, whatever the level of `exit_req`: render and exit check come after it (log 15) -/
  | key (k : Byte) (x : Bool) : ModeChange .waitKey (.keyEvent k) x .running

/-- The registers and the stack are as reset leaves them, and no request was issued: what a program may rely on at its first
instruction (R217). -/
def Fresh (s : State) : Prop :=
  (∀ x, getV s x = 0) ∧ s.i = 0 ∧ s.pc = 0x200 ∧ s.dt = 0 ∧ s.st = 0 ∧ s.stack = [] ∧ s.out = []

/-- The invariant of the machine: what reset establishes and every step keeps. -/
structure StateInv (s : State) : Prop where
  /-- memory is in its canonical form (R21; DESIGN CHOICE, safe, log 3) -/
  memCanonical : Memory.wf s.mem
  /-- `PC` never exceeds `0x10FE` (R15) -/
  pcBound : s.pc.toNat ≤ 0x10FE
  /-- a return address is at most `0x1000` (R15) -/
  stackValues : ∀ w ∈ s.stack, w.toNat ≤ 0x1000
  /-- the depth never exceeds `STACK_DEPTH` (R18, R19) -/
  stackBound : ∀ d, Config.stackDepth = some d → s.stack.length ≤ d
  /-- the prescaler counts below `TICK_DIV` (R184); after a reset this rests on the chosen reset value 0 (DESIGN CHOICE,
  unsafe, log 6) -/
  prescalerBound : s.prescaler < Config.tickDiv
  /-- a fault is recorded exactly in `HALTED` (R27, R176) -/
  faultRecorded : s.mode = .halted ↔ s.faultCode ≠ .noFault
  /-- with no fault recorded the info word is 0 (R27, R31) -/
  infoClear : s.faultCode = .noFault → s.faultInfo = 0
  /-- the info word is at most 65550 (R27) -/
  infoBound : s.faultInfo.toNat ≤ 65550
  /-- in `WAIT_KEY` the latest request is the key wait (R193; the record `out` is DESIGN CHOICE, safe, log 8) -/
  waitOutstanding : s.mode = .waitKey → s.out.head? = some .keyWait
  /-- a render request is outstanding only in `RUNNING`, and is then the latest request (R181; the field is DEDUCED,
  safe, log 15) -/
  renderOutstanding : s.renderPending = true → s.mode = .running ∧ s.out.head? = some .render
  /-- in `IDLE` the registers are as reset left them (R214, R217) -/
  idleFresh : s.mode = .idle → Fresh s

end Sys2Proof.Machine
end

