-- ==== Sys2Proof/Certificates/Slice0/Obligations.lean ====
section
/-! DEFINITION. The statements about the machine, for the provers. Each docstring names the rules of spec/ it formalises. -/

open Sys2Proof Sys2Proof.Machine

/-! ### Reset, load, start, run modes -/

/-- R31, R210: what `State.reset` holds. That the unknown bytes are those of a reset count is the model's form (log 3). -/
def Obligations.ResetStateHoldsTheSpecValues : Prop :=
  (∀ x, getV State.reset x = 0) ∧ State.reset.i = 0 ∧ State.reset.pc = 0x200 ∧ State.reset.dt = 0 ∧ State.reset.st = 0 ∧
  State.reset.stack = [] ∧ State.reset.mode = .idle ∧ State.reset.faultCode.number = 0 ∧ State.reset.faultInfo = 0 ∧
  (∀ a, a < 80 → readByte State.reset a = Config.font a) ∧
  (∀ a, 80 ≤ a → a < 4096 → readByte State.reset a = Config.memInit State.reset.epoch a)

/-- R210: a reset in any state, and that it is the only way out of `STOPPED` and `HALTED`. That the unknown bytes are those of
a new reset count is the model's form of R211 (DESIGN CHOICE, safe, log 3), and that the render request dropped is a state
bit is the model's form too (DEDUCED, safe, log 15). -/
def Obligations.ResetReturnsTheCoreToIdle : Prop :=
  (∀ s, nextEvent s = .reset → ∃ t, step s = .next t ∧
    (∀ x, getV t x = 0) ∧ t.i = 0 ∧ t.pc = 0x200 ∧ t.dt = 0 ∧ t.st = 0 ∧ t.stack = [] ∧
    (∀ a, a < 80 → readByte t a = Config.font a) ∧
    (∀ a, 80 ≤ a → a < 4096 → readByte t a = Config.memInit (s.epoch + 1) a) ∧
    t.mode = .idle ∧ t.faultCode.number = 0 ∧ t.faultInfo = 0 ∧ timerRun t = false ∧ soundOn t = false ∧ t.out = [] ∧
    t.renderPending = false) ∧
  (∀ s t, s.mode = .stopped ∨ s.mode = .halted → step s = .next t → t.mode ≠ s.mode → nextEvent s = .reset)

/-- R213, R214: a load that fits stores its bytes from `0x200` and changes nothing else. -/
def Obligations.LoadOverlaysTheProgram : Prop :=
  ∀ s bytes, nextEvent s = .load bytes → s.mode = .idle → bytes.length ≤ 3584 → ∃ t, step s = .next t ∧
    (∀ k (h : k < bytes.length), readByte t (0x200 + k) = bytes[k]) ∧
    Frame (fun p => cellsFrom 0x200 bytes.length p ∨ among [.inbox, .now] p) s t

/-- R177, R213, R215: a load of more than 3584 bytes halts the core with `CapacityError` and leaves memory alone. -/
def Obligations.LoadTooLongIsACapacityError : Prop :=
  ∀ s bytes, nextEvent s = .load bytes → s.mode = .idle → 3584 < bytes.length → ∃ t, step s = .next t ∧
    FaultTaken .capacity 0 (takeEvent s) t ∧ t.faultCode.number = 5

/-- R216: `Start` in `IDLE` sets the core running and enables the timer engine. That the prescaler takes a free phase is the
model's form of an open point (DESIGN CHOICE, safe, log 6). -/
def Obligations.StartSetsTheCoreRunning : Prop :=
  ∀ s, nextEvent s = .start → s.mode = .idle → ∃ t, step s = .next t ∧ t.mode = .running ∧ timerRun t = true ∧
    t.prescaler < Config.tickDiv ∧ Frame (among [.mode, .prescaler, .inbox, .now]) s t

/-- R180, R197: `Load` and `Start` outside `IDLE`, a key answer outside `WAIT_KEY`, and an acceptance with no render request
outstanding, are ignored. Of the last the spec says only when it is given (DEDUCED, safe, log 15). -/
def Obligations.HostActionsOutOfPlaceAreIgnored : Prop :=
  ∀ s, ((∃ bytes, nextEvent s = .load bytes) ∧ s.mode ≠ .idle) ∨ (nextEvent s = .start ∧ s.mode ≠ .idle) ∨
      ((∃ k, nextEvent s = .keyEvent k) ∧ s.mode ≠ .waitKey) ∨
      (nextEvent s = .renderAccepted ∧ (s.mode ≠ .running ∨ s.renderPending = false)) →
    ∃ t, step s = .next t ∧ Frame (among [.inbox, .now]) s t

/-- R194: `exit_req` can take any level at any time, and taking it changes nothing else. -/
def Obligations.ExitRequestIsOnlyALevel : Prop :=
  ∀ s level, nextEvent s = .exitReq level → ∃ t, step s = .next t ∧ t.exitReq = level ∧
    Frame (among [.exitReq, .inbox, .now]) s t

/-- R180, R200: in `STOPPED` and `HALTED` nothing but a reset changes the state of the core or the timers. -/
def Obligations.StoppedAndHaltedAreFrozen : Prop :=
  ∀ s, s.mode = .stopped ∨ s.mode = .halted → nextEvent s ≠ .reset → ∃ t, step s = .next t ∧
    Frame (among [.exitReq, .answers, .inbox, .now]) s t

/-- R180, with R158 and R181: every change of mode is one the model's `ModeChange` lists; the core waits only for an `Fx0A`;
and it halts only with a fault recorded. The list is R180's table with its rows 'then render' split in two: that a key answer
leads to `RUNNING` also when `exit_req` is 1, and that the exit check is part of the acceptance of the render request, are no
rows of that table but the model's reading of R158 and R181 (DEDUCED, safe, log 15). -/
def Obligations.ModeChangesFollowTheTable : Prop :=
  ∀ s t, step s = .next t → t.mode ≠ s.mode →
    ModeChange s.mode (nextEvent s) s.exitReq t.mode ∧
    (t.mode = .waitKey → ∃ w x, readWord s s.pc.toNat = some w ∧ decodeWord w = .ok (.ldVxK x)) ∧
    (t.mode = .halted → t.faultCode ≠ .noFault)

/-- The model's choice (log 13): every fault of the hardware is taken as a next state, the `HALTED` state of R170 and R176,
and no instruction is refused; so whatever comes, the step answers a next state. That the answers of `Dxyn`, `Ex9E` and
`ExA1` are there within the step is the model's choice too (log 8): the spec leaves them to the environment, which owes
them. -/
def Obligations.EveryStepAnswersANextState : Prop := ∀ s, ∃ t, step s = .next t

/-! ### Fetch, decode, the run loop -/

/-- R45: the last fetchable address is `0x0FFE`; beyond it the fetch faults with `PC` as it was. -/
def Obligations.FetchBeyondMemoryFaults : Prop :=
  (∀ s a, CoreRuns a s → s.pc.toNat + 1 > 4095 → ∃ t, step s = .next t ∧
    FaultTaken .outOfBounds s.pc.toNat (turnState a s) t) ∧
  (∀ s, s.pc.toNat ≤ 0x0FFE → ∃ w, fetch s = .ok (w, setPc (s.pc + 2) s))

/-- R42, R63: the fetched word has the byte at `PC` as its high byte. -/
def Obligations.FetchIsBigEndianAndAdvances : Prop :=
  ∀ s, s.pc.toNat + 1 ≤ 4095 → ∃ w t, fetch s = .ok (w, t) ∧
    w.toNat = (readByte s s.pc.toNat).toNat * 256 + (readByte s (s.pc.toNat + 1)).toNat ∧
    t.pc.toNat = s.pc.toNat + 2 ∧ Frame (among [.pc]) s t

/-- R69, R172: an illegal word raises `IllegalInstructionError` with `PC = A + 2` and no other effect. -/
def Obligations.IllegalWordHaltsTheCore : Prop :=
  ∀ s a w e, CoreRuns a s → readWord s s.pc.toNat = some w → decodeWord w = .error e → ∃ t, step s = .next t ∧
    FaultTaken .illegalInstruction w.toNat (executeState a s) t ∧ t.faultCode.number = 1

/-- R63, R64, R181: when the bytes at `PC` decode to an instruction, the step is its `exec` with `PC` advanced, then, for a
completed instruction, the render request, which then is outstanding as a state bit (DEDUCED, safe, log 15). -/
def Obligations.StepRunsTheDecodedInstruction : Prop :=
  ∀ s a i rest, CoreRuns a s → s.pc.toNat + 1 ≤ 4095 →
    decode [readByte s s.pc.toNat, readByte s (s.pc.toNat + 1)] = .ok (i, rest) →
    step s = finishCycle (exec i (executeState a s))

/-- R181 in the model's form: that the wait for the acceptance is a state bit and that the exit check is part of the move that
accepts are the model's choice (DEDUCED, safe, log 15). A completed instruction is followed by one render request. Until it
is accepted the core waits in `RUNNING`, where
clock periods tick the timers as ever (`ClockTicksOnlyWhileEnabled`) and the core's turn changes nothing
(`CoreDoesNothingOutsideRunning`); at the acceptance `exit_req` is sampled, and nothing else changes. -/
def Obligations.CompletedInstructionRendersThenChecksExit : Prop :=
  (∀ s a i w u, CoreRuns a s → readWord s s.pc.toNat = some w → decodeWord w = .ok i →
    exec i (executeState a s) = .next u → u.mode = .running →
    ∃ t, step s = .next t ∧ t.out = .render :: u.out ∧ t.renderPending = true ∧ t.mode = .running ∧
      Frame (among [.out, .renderPending]) u t) ∧
  (∀ s, nextEvent s = .renderAccepted → s.mode = .running → s.renderPending = true → ∃ t, step s = .next t ∧
    t.renderPending = false ∧ t.mode = (if s.exitReq then .stopped else .running) ∧
    Frame (among [.renderPending, .mode, .inbox, .now]) s t)

/-- R176, R181: after a fault, and while `Fx0A` waits, there is neither render nor exit check. -/
def Obligations.NoRenderAfterAFaultOrDuringAWait : Prop :=
  ∀ s a i w u, CoreRuns a s → readWord s s.pc.toNat = some w → decodeWord w = .ok i →
    exec i (executeState a s) = .next u → u.mode = .halted ∨ u.mode = .waitKey → step s = .next u

/-- R157, R180, R181: outside `RUNNING`, and while a render request is outstanding, the core's turn changes nothing: it fetches
nothing and executes nothing. That the wait is a state bit is the model's form (DEDUCED, safe, log 15). -/
def Obligations.CoreDoesNothingOutsideRunning : Prop :=
  ∀ s a, nextEvent s = .core a → s.mode ≠ .running ∨ s.renderPending = true → ∃ t, step s = .next t ∧
    Frame (among [.answers, .inbox, .now]) s t

/-- R42, R45, R216: the word that `withFetchWord` places is the one the very next step runs. That the placement stands for
`Load` and `Start` is the model's convention (DESIGN CHOICE, safe, log 12). -/
def Obligations.PlacedWordIsRunByTheNextStep : Prop :=
  ∀ s w i, s.pc.toNat + 1 ≤ 4095 → w < 65536 → decodeTableWord 16 w = some i → ∃ t,
    step (s.withFetchWord 16 w) = finishCycle (exec i t) ∧ t.pc = s.pc + 2 ∧ t.mode = .running ∧
    Frame (fun p => cellsFrom s.pc.toNat 2 p ∨ among [.pc, .mode, .renderPending, .now] p) s t

/-! ### Encoding -/

/-- R61, R66: words written out from the encodings of the spec. -/
def Obligations.KnownWordsDecodeAsTheSpecSays : Prop :=
  decodeWord 0b0000000011100000 = .ok .cls ∧ decodeWord 0b0000000011101110 = .ok .ret ∧
  decodeWord 0b0001001000110100 = .ok (.jp 0x234) ∧ decodeWord 0b0011000101000010 = .ok (.seVxKk 1 0x42) ∧
  decodeWord 0b1000000100100100 = .ok (.addVxVy 1 2) ∧ decodeWord 0b1010001100000000 = .ok (.ldINnn 0x300) ∧
  decodeWord 0b1100000100001111 = .ok (.rndVxKk 1 0x0F) ∧ decodeWord 0b1101000000010101 = .ok (.drwVxVyN 0 1 5) ∧
  decodeWord 0b1110001010011110 = .ok (.skpVx 2) ∧ decodeWord 0b1111001101100101 = .ok (.ldVxMemI 3)

/-- R60 to R67: decoding the word, or the bytes, of any instruction gives it back, every operand at every value. -/
def Obligations.DecodeOfEncodeIsTheInstruction : Prop :=
  ∀ i rest, decodeWord (encode i) = .ok i ∧ decode (encodeBytes i ++ rest) = .ok (i, rest) ∧
    decodeTableWord 16 (encode i).toNat = some i

/-- R64, R66: a word that decodes is a word of its instruction's row, and no bit of it is lost. -/
def Obligations.EncodeOfDecodeIsTheWord : Prop :=
  ∀ w i, decodeWord w = .ok i → encode i = w ∧ w &&& i.rowMask = i.rowMatch

/-- R64, R68: the words that do not decode are exactly those of the illegal space. -/
def Obligations.IllegalSpaceIsExactlyTheFourClasses : Prop :=
  ∀ w, decodeWord w = .error (.illegalInstruction w) ↔
    (opField w = 0x0 ∧ nnnField w ≠ 0x0E0 ∧ nnnField w ≠ 0x0EE) ∨
    (opField w = 0x8 ∧ nField w ∈ [0x8#4, 0x9#4, 0xA#4, 0xB#4, 0xC#4, 0xD#4, 0xF#4]) ∨
    (opField w = 0xE ∧ kkField w ∉ [0x9E#8, 0xA1#8]) ∨
    (opField w = 0xF ∧ kkField w ∉ [0x07#8, 0x0A#8, 0x15#8, 0x18#8, 0x1E#8, 0x29#8, 0x33#8, 0x55#8, 0x65#8])

/-! ### Control flow -/

/-- R80: `00EE`. -/
def Obligations.RetPopsOrUnderflows : Prop :=
  (∀ s w rest, s.stack = w :: rest → ∃ t, exec .ret s = .next t ∧ t.pc = w ∧ t.stack = rest ∧
    Frame (among [.pc, .stack]) s t) ∧
  (∀ s, s.stack = [] → ∃ t, exec .ret s = .next t ∧ FaultTaken .stackUnderflow 0 s t ∧ t.faultCode.number = 3)

/-- R81, R88: the jumps. The sum of `Bnnn` is exact. -/
def Obligations.JumpsSetPcExactly : Prop :=
  ∀ nnn s,
    (∃ t, exec (.jp nnn) s = .next t ∧ t.pc.toNat = nnn.toNat ∧ Frame (among [.pc]) s t) ∧
    (∃ t, exec (.jpV0Nnn nnn) s = .next t ∧ t.pc.toNat = (getV s 0).toNat + nnn.toNat ∧ Frame (among [.pc]) s t)

/-- R82: `2nnn` below the stack bound. -/
def Obligations.CallPushesAndJumps : Prop :=
  ∀ nnn s, Config.stackDepth ≠ some s.stack.length → ∃ t, exec (.call nnn) s = .next t ∧
    t.stack = s.pc :: s.stack ∧ t.pc.toNat = nnn.toNat ∧ Frame (among [.pc, .stack]) s t

/-- R19, R175: `2nnn` overflows exactly when `STACK_DEPTH` is a number and the depth is `STACK_DEPTH`; the stack and `PC` are
then unchanged and the info word is the value that was to be pushed. Otherwise the value is pushed. -/
def Obligations.CallOverflowsExactlyAtTheBound : Prop :=
  ∀ nnn s, ∃ t, exec (.call nnn) s = .next t ∧
    if Config.stackDepth = some s.stack.length then
      FaultTaken .stackOverflow s.pc.toNat s t ∧ t.faultCode.number = 4
    else t.stack = s.pc :: s.stack ∧ t.mode = s.mode ∧ t.faultCode = s.faultCode ∧ t.faultInfo = s.faultInfo

/-- 95 S5 (R80, R82): a call and a return at its target come back to the instruction after the call with the stack as it
was. -/
def Obligations.CallThenReturnRoundTrips : Prop :=
  ∀ nnn s, Config.stackDepth ≠ some s.stack.length → ∃ t u, exec (.call nnn) s = .next t ∧ exec .ret t = .next u ∧
    Frame (among []) s u

/-- R83, R84: the skips on an immediate. -/
def Obligations.ImmediateSkipsCompare : Prop :=
  ∀ x kk s,
    (∃ t, exec (.seVxKk x kk) s = .next t ∧ SkipTaken (getV s x = kk) s t ∧ Frame (among [.pc]) s t) ∧
    (∃ t, exec (.sneVxKk x kk) s = .next t ∧ SkipTaken (getV s x ≠ kk) s t ∧ Frame (among [.pc]) s t)

/-- R85, R86, R67: the skips on two registers, for every value of the ignored nibble. -/
def Obligations.RegisterSkipsCompare : Prop :=
  ∀ x y n s,
    (∃ t, exec (.seVxVy x y n) s = .next t ∧ SkipTaken (getV s x = getV s y) s t ∧ Frame (among [.pc]) s t) ∧
    (∃ t, exec (.sneVxVy x y n) s = .next t ∧ SkipTaken (getV s x ≠ getV s y) s t ∧ Frame (among [.pc]) s t)

/-! ### Register load, arithmetic, logic -/

/-- R100, R102: the register loads. -/
def Obligations.RegisterLoadsCopy : Prop :=
  ∀ x y kk s,
    (∃ t, exec (.ldVxKk x kk) s = .next t ∧ getV t x = kk ∧ Frame (among [.v x]) s t) ∧
    (∃ t, exec (.ldVxVy x y) s = .next t ∧ getV t x = getV s y ∧ Frame (among [.v x]) s t)

/-- R101: `7xkk` adds modulo 256 and writes no flag. -/
def Obligations.AddImmediateWrapsWithoutFlag : Prop :=
  ∀ x kk s, ∃ t, exec (.addVxKk x kk) s = .next t ∧ (getV t x).toNat = ((getV s x).toNat + kk.toNat) % 256 ∧
    Frame (among [.v x]) s t

/-- R103, R104, R105, R112: the logic instructions, which leave the flag alone. -/
def Obligations.LogicInstructionsLeaveTheFlag : Prop :=
  ∀ x y s,
    (∃ t, exec (.orVxVy x y) s = .next t ∧ getV t x = getV s x ||| getV s y ∧ Frame (among [.v x]) s t) ∧
    (∃ t, exec (.andVxVy x y) s = .next t ∧ getV t x = getV s x &&& getV s y ∧ Frame (among [.v x]) s t) ∧
    (∃ t, exec (.xorVxVy x y) s = .next t ∧ getV t x = getV s x ^^^ getV s y ∧ Frame (among [.v x]) s t)

/-- R106: `8xy4` in its four cases. -/
def Obligations.AddRegistersSetsCarry : Prop :=
  ∀ x y s, ∃ t, exec (.addVxVy x y) s = .next t ∧ Frame (among [.v x, .v 15]) s t ∧
    (x ≠ 15 → y ≠ 15 →
      (getV t 15).toNat = (if (getV s x).toNat + (getV s y).toNat > 255 then 1 else 0) ∧
      (getV t x).toNat = ((getV s x).toNat + (getV s y).toNat) % 256) ∧
    (x ≠ 15 → y = 15 →
      (getV t 15).toNat = (if (getV s x).toNat + (getV s 15).toNat > 255 then 1 else 0) ∧
      (getV t x).toNat = ((getV s x).toNat + (if (getV s x).toNat + (getV s 15).toNat > 255 then 1 else 0)) % 256) ∧
    (x = 15 → y ≠ 15 →
      (getV t 15).toNat = ((if (getV s 15).toNat + (getV s y).toNat > 255 then 1 else 0) + (getV s y).toNat) % 256) ∧
    (x = 15 → y = 15 → (getV t 15).toNat = if (getV s 15).toNat ≥ 128 then 2 else 0)

/-- R107: `8xy5` in its four cases; the flag is strict. -/
def Obligations.SubSetsStrictGreater : Prop :=
  ∀ x y s, ∃ t, exec (.subVxVy x y) s = .next t ∧ Frame (among [.v x, .v 15]) s t ∧
    (x ≠ 15 → y ≠ 15 →
      (getV t 15).toNat = (if (getV s x).toNat > (getV s y).toNat then 1 else 0) ∧
      (getV t x).toNat = ((getV s x).toNat + 256 - (getV s y).toNat) % 256) ∧
    (x ≠ 15 → y = 15 →
      (getV t 15).toNat = (if (getV s x).toNat > (getV s 15).toNat then 1 else 0) ∧
      (getV t x).toNat = ((getV s x).toNat + 256 - (if (getV s x).toNat > (getV s 15).toNat then 1 else 0)) % 256) ∧
    (x = 15 → y ≠ 15 →
      (getV t 15).toNat = ((if (getV s 15).toNat > (getV s y).toNat then 1 else 0) + 256 - (getV s y).toNat) % 256) ∧
    (x = 15 → y = 15 → (getV t 15).toNat = 0)

/-- R109: `8xy7` in its four cases; the flag is strict. -/
def Obligations.SubnSetsStrictGreater : Prop :=
  ∀ x y s, ∃ t, exec (.subnVxVy x y) s = .next t ∧ Frame (among [.v x, .v 15]) s t ∧
    (x ≠ 15 → y ≠ 15 →
      (getV t 15).toNat = (if (getV s y).toNat > (getV s x).toNat then 1 else 0) ∧
      (getV t x).toNat = ((getV s y).toNat + 256 - (getV s x).toNat) % 256) ∧
    (x ≠ 15 → y = 15 →
      (getV t 15).toNat = (if (getV s 15).toNat > (getV s x).toNat then 1 else 0) ∧
      (getV t x).toNat = ((if (getV s 15).toNat > (getV s x).toNat then 1 else 0) + 256 - (getV s x).toNat) % 256) ∧
    (x = 15 → y ≠ 15 →
      (getV t 15).toNat = ((getV s y).toNat + 256 - (if (getV s y).toNat > (getV s 15).toNat then 1 else 0)) % 256) ∧
    (x = 15 → y = 15 → (getV t 15).toNat = 0)

/-- R108, R110: the shifts report the bit shifted out, and ignore the `y` nibble. -/
def Obligations.ShiftsReportTheBitShiftedOut : Prop :=
  ∀ x y s,
    (∃ t, exec (.shrVx x y) s = .next t ∧ Frame (among [.v x, .v 15]) s t ∧
      (x ≠ 15 → (getV t 15).toNat = (getV s x).toNat % 2 ∧ (getV t x).toNat = (getV s x).toNat / 2) ∧
      (x = 15 → (getV t 15).toNat = 0)) ∧
    (∃ t, exec (.shlVx x y) s = .next t ∧ Frame (among [.v x, .v 15]) s t ∧
      (x ≠ 15 → (getV t 15).toNat = (getV s x).toNat / 128 ∧ (getV t x).toNat = (getV s x).toNat * 2 % 256) ∧
      (x = 15 → (getV t 15).toNat = if (getV s 15).toNat ≥ 128 then 2 else 0))

/-- R11: `V[0xF]` changes only by a flag-writing instruction or as a named destination. -/
def Obligations.FlagRegisterChangesOnlyAsListed : Prop :=
  ∀ i s t, exec i s = .next t → getV t 15 ≠ getV s 15 →
    (∃ x y, i = .addVxVy x y ∨ i = .subVxVy x y ∨ i = .subnVxVy x y ∨ i = .shrVx x y ∨ i = .shlVx x y) ∨
    (∃ x y n, i = .drwVxVyN x y n) ∨
    (∃ y kk, i = .ldVxKk 15 kk ∨ i = .addVxKk 15 kk ∨ i = .ldVxVy 15 y ∨ i = .orVxVy 15 y ∨ i = .andVxVy 15 y ∨
      i = .xorVxVy 15 y ∨ i = .rndVxKk 15 kk ∨ i = .ldVxDt 15 ∨ i = .ldVxMemI 15)

/-! ### Address register and memory -/

/-- R120, R122, R123: the three instructions that write `I`. -/
def Obligations.AddressRegisterArithmetic : Prop :=
  ∀ x nnn s,
    (∃ t, exec (.ldINnn nnn) s = .next t ∧ t.i.toNat = nnn.toNat ∧ Frame (among [.i]) s t) ∧
    (∃ t, exec (.addIVx x) s = .next t ∧ t.i.toNat = (s.i.toNat + (getV s x).toNat) % 65536 ∧
      Frame (among [.i]) s t) ∧
    (∃ t, exec (.ldFVx x) s = .next t ∧ t.i.toNat = (getV s x).toNat * 5 ∧ Frame (among [.i]) s t)

/-- R124: `Fx33` in bounds stores hundreds, tens and units, which make the byte again (95 S4). -/
def Obligations.BcdStoresTheThreeDigits : Prop :=
  ∀ x s, dataBase s + 2 ≤ 4095 → ∃ t, exec (.ldBVx x) s = .next t ∧
    (readByte t (dataBase s)).toNat = (getV s x).toNat / 100 ∧
    (readByte t (dataBase s + 1)).toNat = (getV s x).toNat / 10 % 10 ∧
    (readByte t (dataBase s + 2)).toNat = (getV s x).toNat % 10 ∧
    (getV s x).toNat = 100 * (readByte t (dataBase s)).toNat + 10 * (readByte t (dataBase s + 1)).toNat +
      (readByte t (dataBase s + 2)).toNat ∧
    Frame (cellsFrom (dataBase s) 3) s t

/-- R125: `Fx55` in bounds stores `V[0]` to `V[x]`. -/
def Obligations.StoreRegistersWritesMemory : Prop :=
  ∀ x s, dataBase s + x.val ≤ 4095 → ∃ t, exec (.ldMemIVx x) s = .next t ∧
    (∀ k : Reg, k ≤ x → readByte t (dataBase s + k.val) = getV s k) ∧
    Frame (cellsFrom (dataBase s) (x.val + 1)) s t

/-- R126: `Fx65` in bounds loads `V[0]` to `V[x]`. -/
def Obligations.LoadRegistersReadsMemory : Prop :=
  ∀ x s, dataBase s + x.val ≤ 4095 → ∃ t, exec (.ldVxMemI x) s = .next t ∧
    (∀ k : Reg, k ≤ x → getV t k = readByte s (dataBase s + k.val)) ∧ Frame (regsTo x) s t

/-- R46: an access whose last address is beyond 4095 faults before it has any effect, and `fault_info` is that last address.
An access of no bytes, a `Dxyn` with `n = 0`, never faults. -/
def Obligations.OutOfRangeAccessFaultsFirst : Prop :=
  (∀ x s, dataBase s + 2 > 4095 → ∃ t, exec (.ldBVx x) s = .next t ∧
    FaultTaken .outOfBounds (dataBase s + 2) s t) ∧
  (∀ x s, dataBase s + x.val > 4095 → ∃ t, exec (.ldMemIVx x) s = .next t ∧
    FaultTaken .outOfBounds (dataBase s + x.val) s t) ∧
  (∀ x s, dataBase s + x.val > 4095 → ∃ t, exec (.ldVxMemI x) s = .next t ∧
    FaultTaken .outOfBounds (dataBase s + x.val) s t) ∧
  (∀ x y n s, n.toNat ≥ 1 → dataBase s + n.toNat - 1 > 4095 → ∃ t, exec (.drwVxVyN x y n) s = .next t ∧
    FaultTaken .outOfBounds (dataBase s + n.toNat - 1) s t) ∧
  (∀ x y s, ∃ t, exec (.drwVxVyN x y 0) s = .next t ∧ t.mode = s.mode ∧ t.faultCode = s.faultCode ∧
    t.faultInfo = s.faultInfo)

/-- R55: bytes stored by `Fx55` are what the very next fetch at their address reads. -/
def Obligations.FetchSeesTheLatestStore : Prop :=
  ∀ x k s, dataBase s + x.val ≤ 4095 → (hk : k + 1 ≤ x.val) → s.pc.toNat = dataBase s + k → ∃ t,
    exec (.ldMemIVx x) s = .next t ∧
    fetch t = .ok (wordOfBytes (getV s ⟨k, by omega⟩) (getV s ⟨k + 1, by omega⟩), setPc (s.pc + 2) t)

/-- R125, R126: `Fx55` then `Fx65` over the same range give the registers back. -/
def Obligations.StoreThenLoadGivesTheRegistersBack : Prop :=
  ∀ x s, dataBase s + x.val ≤ 4095 → ∃ t u, exec (.ldMemIVx x) s = .next t ∧ exec (.ldVxMemI x) t = .next u ∧
    Frame (cellsFrom (dataBase s) (x.val + 1)) s u

/-- R12: `I` is changed by `Annn`, `Fx1E` and `Fx29` only. -/
def Obligations.AddressRegisterChangesOnlyAsListed : Prop :=
  ∀ i s t, exec i s = .next t → t.i ≠ s.i →
    (∃ nnn, i = .ldINnn nnn) ∨ (∃ x, i = .addIVx x) ∨ (∃ x, i = .ldFVx x)

/-- R18: the stack is changed by `2nnn` and `00EE` only. R21: a memory cell by `Fx33` and `Fx55` only, and only inside the
range that starts at `I`. -/
def Obligations.StackAndMemoryChangeOnlyAsListed : Prop :=
  ∀ i s t, exec i s = .next t →
    (t.stack ≠ s.stack → i = .ret ∨ ∃ nnn, i = .call nnn) ∧
    (∀ a, readByte t a ≠ readByte s a →
      (∃ x, (i = .ldBVx x ∨ i = .ldMemIVx x)) ∧ dataBase s ≤ a ∧ a < dataBase s + 16 ∧ a ≤ 4095)

/-- R212, R229: an instruction whose data cells were all written behaves the same whatever `MEM_INIT` is: the reset count,
which selects the unknown bytes (log 3), is carried along and nothing else depends on it. -/
def Obligations.WrittenCellsHideTheUnknownMemory : Prop :=
  ∀ i s e, (∀ k, k < 16 → (s.mem.cell (dataBase s + k)).isSome = true) →
    ∃ t, exec i s = .next t ∧ exec i { s with epoch := e } = .next { t with epoch := e }

/-! ### Random number and timers -/

/-- R140: `Cxkk` masks the random byte of the turn, whatever it is. -/
def Obligations.RandomByteIsMasked : Prop :=
  ∀ x kk s, ∃ t, exec (.rndVxKk x kk) s = .next t ∧ getV t x = s.answers.rnd &&& kk ∧ getV t x &&& ~~~kk = 0 ∧
    Frame (among [.v x]) s t

/-- R142, R143, R144, R198: the timer instructions. -/
def Obligations.TimerInstructionsMoveBytes : Prop :=
  ∀ x s,
    (∃ t, exec (.ldVxDt x) s = .next t ∧ getV t x = s.dt ∧ Frame (among [.v x]) s t) ∧
    (∃ t, exec (.ldDtVx x) s = .next t ∧ t.dt = getV s x ∧ Frame (among [.dt]) s t) ∧
    (∃ t, exec (.ldStVx x) s = .next t ∧ t.st = getV s x ∧ (soundOn t = true ↔ getV s x ≠ 0) ∧
      Frame (among [.st]) s t)

/-- R185 (95 S6): `n` ticks lower each timer by `n` and no further than 0, and change nothing else. -/
def Obligations.TicksCountDownToZero : Prop :=
  ∀ n s, (timerTick^[n] s).dt.toNat = s.dt.toNat - n ∧ (timerTick^[n] s).st.toNat = s.st.toNat - n ∧
    Frame (among [.dt, .st]) s (timerTick^[n] s)

/-- R183, R184: a clock period counts the prescaler up, and ticks when it wraps, exactly while the core runs or waits. The exact
count is the model's reading of R184 (log 6). -/
def Obligations.ClockTicksOnlyWhileEnabled : Prop :=
  ∀ s, nextEvent s = .clock → ∃ t, step s = .next t ∧
    if s.mode = .running ∨ s.mode = .waitKey then
      if s.prescaler + 1 = Config.tickDiv then
        t.dt.toNat = s.dt.toNat - 1 ∧ t.st.toNat = s.st.toNat - 1 ∧ t.prescaler = 0 ∧
          Frame (among [.dt, .st, .prescaler, .inbox, .now]) s t
      else t.prescaler = s.prescaler + 1 ∧ Frame (among [.prescaler, .inbox, .now]) s t
    else Frame (among [.inbox, .now]) s t

/-- R187: a tick before an instruction and the same tick after it come to the same, but for `Fx07`, `Fx15` and `Fx18`. -/
def Obligations.TicksCommuteWithInstructions : Prop :=
  ∀ i s, (∀ x, i ≠ .ldVxDt x ∧ i ≠ .ldDtVx x ∧ i ≠ .ldStVx x) →
    ∃ t, exec i s = .next t ∧ exec i (timerTick s) = .next (timerTick t)

/-- R142, R145: no step raises `DT` but an `Fx15`, and none raises `ST` but an `Fx18`. -/
def Obligations.TimersRiseOnlyByTheirInstructions : Prop :=
  ∀ s t, step s = .next t →
    (t.dt.toNat > s.dt.toNat → ∃ a w x, CoreRuns a s ∧ readWord s s.pc.toNat = some w ∧
      decodeWord w = .ok (.ldDtVx x)) ∧
    (t.st.toNat > s.st.toNat → ∃ a w x, CoreRuns a s ∧ readWord s s.pc.toNat = some w ∧
      decodeWord w = .ok (.ldStVx x))

/-! ### Display and keypad -/

/-- R150: `00E0` issues one request and does nothing else. -/
def Obligations.ClearIssuesOneRequest : Prop :=
  ∀ s, ∃ t, exec .cls s = .next t ∧ t.out = .clear :: s.out ∧ Frame (among [.out]) s t

/-- R152: `Dxyn` in bounds sends the rows and the old coordinates, then writes the answer to `V[0xF]`. -/
def Obligations.DrawSendsRowsAndTakesTheCollisionBit : Prop :=
  ∀ x y n s, n.toNat = 0 ∨ dataBase s + n.toNat - 1 ≤ 4095 → ∃ t rows, exec (.drwVxVyN x y n) s = .next t ∧
    t.out = .draw n rows (getV s x) (getV s y) :: s.out ∧ rows.length = n.toNat ∧
    (∀ k, k < n.toNat → rows[k]? = some (readByte s (dataBase s + k))) ∧
    (getV t 15).toNat = (if s.answers.collision then 1 else 0) ∧ Frame (among [.v 15, .out]) s t

/-- R154, R155, R156: the key skips send the whole byte of `V[x]` and follow the answer. -/
def Obligations.KeySkipsFollowTheAnswer : Prop :=
  ∀ x s,
    (∃ t, exec (.skpVx x) s = .next t ∧ t.out = .keyQuery (getV s x) :: s.out ∧
      SkipTaken (s.answers.keyDown = true) s t ∧ Frame (among [.pc, .out]) s t) ∧
    (∃ t, exec (.sknpVx x) s = .next t ∧ t.out = .keyQuery (getV s x) :: s.out ∧
      SkipTaken (s.answers.keyDown = false) s t ∧ Frame (among [.pc, .out]) s t)

/-- R157: `Fx0A` issues its request and waits. -/
def Obligations.WaitForKeyIsIssued : Prop :=
  ∀ x s, ∃ t, exec (.ldVxK x) s = .next t ∧ t.waitX = x ∧ t.mode = .waitKey ∧ t.out = .keyWait :: s.out ∧
    Frame (among [.waitX, .mode, .out]) s t

/-- R158, R159, R181, in the model's form: the outstanding render request as a state bit, and the exit check as part of its
acceptance, are the model's choice (DEDUCED, safe, log 15). The answer to the wait, whatever byte it is, goes to `V[wait_x]` and the core is `RUNNING`; then comes the
render request, and at its acceptance the exit check, which stops the core when `exit_req` is 1. -/
def Obligations.KeyAnswerCompletesTheWait : Prop :=
  ∀ s k, nextEvent s = .keyEvent k → s.mode = .waitKey → ∃ t, step s = .next t ∧ getV t s.waitX = k ∧
    t.mode = .running ∧ t.out = .render :: s.out ∧ t.renderPending = true ∧
    Frame (among [.v s.waitX, .mode, .out, .renderPending, .inbox, .now]) s t ∧
    ∃ u, act .renderAccepted t = .next u ∧ u.mode = (if s.exitReq then .stopped else .running) ∧
      Frame (among [.mode, .renderPending]) t u

/-! ### The invariant -/

/-- R31, R210: the invariant holds after reset. The clause `prescalerBound` rests on the reset value 0 that the model chose for
the prescaler, which R31 leaves unspecified (DESIGN CHOICE, unsafe, log 6); `memCanonical` is about the model's form of memory
(log 3), `waitOutstanding` and `renderOutstanding` about its record of requests and its wait bit (log 8, log 15). -/
def Obligations.ResetMeetsTheInvariant : Prop := StateInv State.reset

/-- R15, R18, R21, R27, R176, R181, R184, R193, R217: from every state that meets the invariant, every step leads to one that meets
it. After a reset move the clause `prescalerBound` rests on the reset value 0 that the model chose for the prescaler, which
R31 and R184 leave open (DESIGN CHOICE, unsafe, log 6); `memCanonical` is about the model's form of memory (log 3),
`waitOutstanding` about its record of requests (log 8), `renderOutstanding` about its wait bit (log 15). -/
def Obligations.EveryStepKeepsTheInvariant : Prop := ∀ s t, StateInv s → step s = .next t → StateInv t
end

