-- ==== Sys2Proof/Laws/Decode.lean ====
section
/-! SUPPORT. The fields of a word built from the formats of R62, and a word from its fields. -/

namespace Sys2Proof

@[simp] theorem regOfBits_bitsOfReg (r : Reg) : regOfBits (bitsOfReg r) = r := by
  apply Fin.ext
  simp [regOfBits, bitsOfReg]

@[simp] theorem bitsOfReg_regOfBits (b : BitVec 4) : bitsOfReg (regOfBits b) = b := by
  apply BitVec.eq_of_toNat_eq
  simp [regOfBits, bitsOfReg]

theorem getLsbD_formatA (op : BitVec 4) (nnn : BitVec 12) (k : Nat) :
    (formatA op nnn).getLsbD k = if k < 12 then nnn.getLsbD k else op.getLsbD (k - 12) :=
  BitVec.getLsbD_append

theorem getLsbD_formatXK (op : BitVec 4) (x : Reg) (kk : Byte) (k : Nat) :
    (formatXK op x kk).getLsbD k =
      if k < 12 then (if k < 8 then kk.getLsbD k else (bitsOfReg x).getLsbD (k - 8)) else op.getLsbD (k - 12) := by
  have h : (bitsOfReg x ++ kk).getLsbD k = if k < 8 then kk.getLsbD k else (bitsOfReg x).getLsbD (k - 8) :=
    BitVec.getLsbD_append
  rw [← h]
  exact BitVec.getLsbD_append

theorem getLsbD_formatXY (op : BitVec 4) (x y : Reg) (n : BitVec 4) (k : Nat) :
    (formatXY op x y n).getLsbD k =
      if k < 12 then
        (if k < 8 then (if k < 4 then n.getLsbD k else (bitsOfReg y).getLsbD (k - 4)) else (bitsOfReg x).getLsbD (k - 8))
      else op.getLsbD (k - 12) := by
  have h : (bitsOfReg y ++ n).getLsbD k = if k < 4 then n.getLsbD k else (bitsOfReg y).getLsbD (k - 4) :=
    BitVec.getLsbD_append
  rw [← h]
  exact getLsbD_formatXK op x (bitsOfReg y ++ n) k

theorem getLsbD_wordOfBytes (hi lo : Byte) (k : Nat) :
    (wordOfBytes hi lo).getLsbD k = if k < 8 then lo.getLsbD k else hi.getLsbD (k - 8) :=
  BitVec.getLsbD_append

@[simp] theorem opField_formatA (op : BitVec 4) (nnn : BitVec 12) : opField (formatA op nnn) = op := by
  apply BitVec.eq_of_getLsbD_eq
  intro k hk
  have h : ¬ 12 + k < 12 := by omega
  simp [opField, getLsbD_formatA, hk]

@[simp] theorem nnnField_formatA (op : BitVec 4) (nnn : BitVec 12) : nnnField (formatA op nnn) = nnn := by
  apply BitVec.eq_of_getLsbD_eq
  intro k hk
  simp [nnnField, getLsbD_formatA, hk]

theorem formatXK_eq (op : BitVec 4) (x : Reg) (kk : Byte) : formatXK op x kk = formatA op (bitsOfReg x ++ kk) := rfl

theorem formatXY_eq (op : BitVec 4) (x y : Reg) (n : BitVec 4) :
    formatXY op x y n = formatXK op x (bitsOfReg y ++ n) := rfl

@[simp] theorem opField_formatXK (op : BitVec 4) (x : Reg) (kk : Byte) : opField (formatXK op x kk) = op := by
  rw [formatXK_eq, opField_formatA]

@[simp] theorem xField_formatXK (op : BitVec 4) (x : Reg) (kk : Byte) : xField (formatXK op x kk) = x := by
  have h : (formatXK op x kk).extractLsb' 8 4 = bitsOfReg x := by
    apply BitVec.eq_of_getLsbD_eq
    intro k hk
    have h1 : 8 + k < 12 := by omega
    have h2 : ¬ 8 + k < 8 := by omega
    simp [getLsbD_formatXK, hk, h1]
  simp [xField, h]

@[simp] theorem kkField_formatXK (op : BitVec 4) (x : Reg) (kk : Byte) : kkField (formatXK op x kk) = kk := by
  apply BitVec.eq_of_getLsbD_eq
  intro k hk
  have h1 : k < 12 := by omega
  simp [kkField, getLsbD_formatXK, hk, h1]

@[simp] theorem opField_formatXY (op : BitVec 4) (x y : Reg) (n : BitVec 4) : opField (formatXY op x y n) = op := by
  rw [formatXY_eq, opField_formatXK]

@[simp] theorem xField_formatXY (op : BitVec 4) (x y : Reg) (n : BitVec 4) : xField (formatXY op x y n) = x := by
  rw [formatXY_eq, xField_formatXK]

@[simp] theorem yField_formatXY (op : BitVec 4) (x y : Reg) (n : BitVec 4) : yField (formatXY op x y n) = y := by
  have h : (formatXY op x y n).extractLsb' 4 4 = bitsOfReg y := by
    apply BitVec.eq_of_getLsbD_eq
    intro k hk
    have h1 : 4 + k < 12 := by omega
    have h2 : 4 + k < 8 := by omega
    simp [getLsbD_formatXY, hk, h1, h2]
  simp [yField, h]

@[simp] theorem nField_formatXY (op : BitVec 4) (x y : Reg) (n : BitVec 4) : nField (formatXY op x y n) = n := by
  apply BitVec.eq_of_getLsbD_eq
  intro k hk
  have h1 : k < 12 := by omega
  have h2 : k < 8 := by omega
  simp [nField, getLsbD_formatXY, hk, h1, h2]

/-- A word is its class and its address field. -/
theorem formatA_fields (w : Word) : formatA (opField w) (nnnField w) = w := by
  apply BitVec.eq_of_getLsbD_eq
  intro k hk
  simp only [getLsbD_formatA, opField, nnnField, BitVec.getLsbD_extractLsb']
  by_cases h : k < 12
  · simp [h]
  · have h1 : k - 12 < 4 := by omega
    have h2 : 12 + (k - 12) = k := by omega
    simp [h, h1, h2]

/-- A word is its class, its `x` field and its `kk` field. -/
theorem formatXK_fields (w : Word) : formatXK (opField w) (xField w) (kkField w) = w := by
  apply BitVec.eq_of_getLsbD_eq
  intro k hk
  simp only [getLsbD_formatXK, opField, xField, kkField, bitsOfReg_regOfBits, BitVec.getLsbD_extractLsb']
  by_cases h : k < 8
  · have h0 : k < 12 := by omega
    simp [h, h0]
  · by_cases h0 : k < 12
    · have h1 : k - 8 < 4 := by omega
      have h2 : 8 + (k - 8) = k := by omega
      simp [h, h0, h1, h2]
    · have h1 : k - 12 < 4 := by omega
      have h2 : 12 + (k - 12) = k := by omega
      simp [h0, h1, h2]

/-- A word is its class and its three nibbles. -/
theorem formatXY_fields (w : Word) : formatXY (opField w) (xField w) (yField w) (nField w) = w := by
  apply BitVec.eq_of_getLsbD_eq
  intro k hk
  simp only [getLsbD_formatXY, opField, xField, yField, nField, bitsOfReg_regOfBits, BitVec.getLsbD_extractLsb']
  by_cases h : k < 4
  · have h0 : k < 12 := by omega
    have h8 : k < 8 := by omega
    simp [h, h0, h8]
  · by_cases h8 : k < 8
    · have h0 : k < 12 := by omega
      have h1 : k - 4 < 4 := by omega
      have h2 : 4 + (k - 4) = k := by omega
      simp [h, h0, h1, h2, h8]
    · by_cases h0 : k < 12
      · have h1 : k - 8 < 4 := by omega
        have h2 : 8 + (k - 8) = k := by omega
        simp [h8, h0, h1, h2]
      · have h1 : k - 12 < 4 := by omega
        have h2 : 12 + (k - 12) = k := by omega
        simp [h0, h1, h2]

/-- The two bytes of a word make the word again. -/
theorem wordOfBytes_bytes (w : Word) : wordOfBytes (w.extractLsb' 8 8) (w.extractLsb' 0 8) = w := by
  apply BitVec.eq_of_getLsbD_eq
  intro k hk
  simp only [getLsbD_wordOfBytes, BitVec.getLsbD_extractLsb']
  by_cases h : k < 8
  · simp [h]
  · have h1 : k - 8 < 8 := by omega
    have h2 : 8 + (k - 8) = k := by omega
    simp [h, h1, h2]

end Sys2Proof
end

