-- ==== Sys2Proof/Laws/State.lean ====
section
/-! SUPPORT. One lemma per field of State for each update, so that no proof unfolds a record update. -/

namespace Sys2Proof.Machine

section setV
variable (s : State) (x : Reg) (b : Byte)

@[simp] theorem setV_v : (setV x b s).v = s.v.set x b := rfl
@[simp] theorem setV_i : (setV x b s).i = s.i := rfl
@[simp] theorem setV_pc : (setV x b s).pc = s.pc := rfl
@[simp] theorem setV_dt : (setV x b s).dt = s.dt := rfl
@[simp] theorem setV_st : (setV x b s).st = s.st := rfl
@[simp] theorem setV_stack : (setV x b s).stack = s.stack := rfl
@[simp] theorem setV_mem : (setV x b s).mem = s.mem := rfl
@[simp] theorem setV_mode : (setV x b s).mode = s.mode := rfl
@[simp] theorem setV_faultCode : (setV x b s).faultCode = s.faultCode := rfl
@[simp] theorem setV_faultInfo : (setV x b s).faultInfo = s.faultInfo := rfl
@[simp] theorem setV_waitX : (setV x b s).waitX = s.waitX := rfl
@[simp] theorem setV_prescaler : (setV x b s).prescaler = s.prescaler := rfl
@[simp] theorem setV_renderPending : (setV x b s).renderPending = s.renderPending := rfl
@[simp] theorem setV_exitReq : (setV x b s).exitReq = s.exitReq := rfl
@[simp] theorem setV_answers : (setV x b s).answers = s.answers := rfl
@[simp] theorem setV_out : (setV x b s).out = s.out := rfl
@[simp] theorem setV_epoch : (setV x b s).epoch = s.epoch := rfl
@[simp] theorem setV_inbox : (setV x b s).inbox = s.inbox := rfl
@[simp] theorem setV_now : (setV x b s).now = s.now := rfl

end setV

section setRegs
variable (s : State) (v : Vector Byte 16)

@[simp] theorem setRegs_v : (setRegs v s).v = v := rfl
@[simp] theorem setRegs_i : (setRegs v s).i = s.i := rfl
@[simp] theorem setRegs_pc : (setRegs v s).pc = s.pc := rfl
@[simp] theorem setRegs_dt : (setRegs v s).dt = s.dt := rfl
@[simp] theorem setRegs_st : (setRegs v s).st = s.st := rfl
@[simp] theorem setRegs_stack : (setRegs v s).stack = s.stack := rfl
@[simp] theorem setRegs_mem : (setRegs v s).mem = s.mem := rfl
@[simp] theorem setRegs_mode : (setRegs v s).mode = s.mode := rfl
@[simp] theorem setRegs_faultCode : (setRegs v s).faultCode = s.faultCode := rfl
@[simp] theorem setRegs_faultInfo : (setRegs v s).faultInfo = s.faultInfo := rfl
@[simp] theorem setRegs_waitX : (setRegs v s).waitX = s.waitX := rfl
@[simp] theorem setRegs_prescaler : (setRegs v s).prescaler = s.prescaler := rfl
@[simp] theorem setRegs_renderPending : (setRegs v s).renderPending = s.renderPending := rfl
@[simp] theorem setRegs_exitReq : (setRegs v s).exitReq = s.exitReq := rfl
@[simp] theorem setRegs_answers : (setRegs v s).answers = s.answers := rfl
@[simp] theorem setRegs_out : (setRegs v s).out = s.out := rfl
@[simp] theorem setRegs_epoch : (setRegs v s).epoch = s.epoch := rfl
@[simp] theorem setRegs_inbox : (setRegs v s).inbox = s.inbox := rfl
@[simp] theorem setRegs_now : (setRegs v s).now = s.now := rfl

end setRegs

section setI
variable (s : State) (w : Word)

@[simp] theorem setI_v : (setI w s).v = s.v := rfl
@[simp] theorem setI_i : (setI w s).i = w := rfl
@[simp] theorem setI_pc : (setI w s).pc = s.pc := rfl
@[simp] theorem setI_dt : (setI w s).dt = s.dt := rfl
@[simp] theorem setI_st : (setI w s).st = s.st := rfl
@[simp] theorem setI_stack : (setI w s).stack = s.stack := rfl
@[simp] theorem setI_mem : (setI w s).mem = s.mem := rfl
@[simp] theorem setI_mode : (setI w s).mode = s.mode := rfl
@[simp] theorem setI_faultCode : (setI w s).faultCode = s.faultCode := rfl
@[simp] theorem setI_faultInfo : (setI w s).faultInfo = s.faultInfo := rfl
@[simp] theorem setI_waitX : (setI w s).waitX = s.waitX := rfl
@[simp] theorem setI_prescaler : (setI w s).prescaler = s.prescaler := rfl
@[simp] theorem setI_renderPending : (setI w s).renderPending = s.renderPending := rfl
@[simp] theorem setI_exitReq : (setI w s).exitReq = s.exitReq := rfl
@[simp] theorem setI_answers : (setI w s).answers = s.answers := rfl
@[simp] theorem setI_out : (setI w s).out = s.out := rfl
@[simp] theorem setI_epoch : (setI w s).epoch = s.epoch := rfl
@[simp] theorem setI_inbox : (setI w s).inbox = s.inbox := rfl
@[simp] theorem setI_now : (setI w s).now = s.now := rfl

end setI

section setPc
variable (s : State) (w : Word)

@[simp] theorem setPc_v : (setPc w s).v = s.v := rfl
@[simp] theorem setPc_i : (setPc w s).i = s.i := rfl
@[simp] theorem setPc_pc : (setPc w s).pc = w := rfl
@[simp] theorem setPc_dt : (setPc w s).dt = s.dt := rfl
@[simp] theorem setPc_st : (setPc w s).st = s.st := rfl
@[simp] theorem setPc_stack : (setPc w s).stack = s.stack := rfl
@[simp] theorem setPc_mem : (setPc w s).mem = s.mem := rfl
@[simp] theorem setPc_mode : (setPc w s).mode = s.mode := rfl
@[simp] theorem setPc_faultCode : (setPc w s).faultCode = s.faultCode := rfl
@[simp] theorem setPc_faultInfo : (setPc w s).faultInfo = s.faultInfo := rfl
@[simp] theorem setPc_waitX : (setPc w s).waitX = s.waitX := rfl
@[simp] theorem setPc_prescaler : (setPc w s).prescaler = s.prescaler := rfl
@[simp] theorem setPc_renderPending : (setPc w s).renderPending = s.renderPending := rfl
@[simp] theorem setPc_exitReq : (setPc w s).exitReq = s.exitReq := rfl
@[simp] theorem setPc_answers : (setPc w s).answers = s.answers := rfl
@[simp] theorem setPc_out : (setPc w s).out = s.out := rfl
@[simp] theorem setPc_epoch : (setPc w s).epoch = s.epoch := rfl
@[simp] theorem setPc_inbox : (setPc w s).inbox = s.inbox := rfl
@[simp] theorem setPc_now : (setPc w s).now = s.now := rfl

end setPc

section emit
variable (s : State) (r : Request)

@[simp] theorem emit_v : (emit r s).v = s.v := rfl
@[simp] theorem emit_i : (emit r s).i = s.i := rfl
@[simp] theorem emit_pc : (emit r s).pc = s.pc := rfl
@[simp] theorem emit_dt : (emit r s).dt = s.dt := rfl
@[simp] theorem emit_st : (emit r s).st = s.st := rfl
@[simp] theorem emit_stack : (emit r s).stack = s.stack := rfl
@[simp] theorem emit_mem : (emit r s).mem = s.mem := rfl
@[simp] theorem emit_mode : (emit r s).mode = s.mode := rfl
@[simp] theorem emit_faultCode : (emit r s).faultCode = s.faultCode := rfl
@[simp] theorem emit_faultInfo : (emit r s).faultInfo = s.faultInfo := rfl
@[simp] theorem emit_waitX : (emit r s).waitX = s.waitX := rfl
@[simp] theorem emit_prescaler : (emit r s).prescaler = s.prescaler := rfl
@[simp] theorem emit_renderPending : (emit r s).renderPending = s.renderPending := rfl
@[simp] theorem emit_exitReq : (emit r s).exitReq = s.exitReq := rfl
@[simp] theorem emit_answers : (emit r s).answers = s.answers := rfl
@[simp] theorem emit_out : (emit r s).out = r :: s.out := rfl
@[simp] theorem emit_epoch : (emit r s).epoch = s.epoch := rfl
@[simp] theorem emit_inbox : (emit r s).inbox = s.inbox := rfl
@[simp] theorem emit_now : (emit r s).now = s.now := rfl

end emit

section raiseFault
variable (s : State) (c : FaultCode) (n : Info)

@[simp] theorem raiseFault_v : (raiseFault c n s).v = s.v := rfl
@[simp] theorem raiseFault_i : (raiseFault c n s).i = s.i := rfl
@[simp] theorem raiseFault_pc : (raiseFault c n s).pc = s.pc := rfl
@[simp] theorem raiseFault_dt : (raiseFault c n s).dt = s.dt := rfl
@[simp] theorem raiseFault_st : (raiseFault c n s).st = s.st := rfl
@[simp] theorem raiseFault_stack : (raiseFault c n s).stack = s.stack := rfl
@[simp] theorem raiseFault_mem : (raiseFault c n s).mem = s.mem := rfl
@[simp] theorem raiseFault_mode : (raiseFault c n s).mode = .halted := rfl
@[simp] theorem raiseFault_faultCode : (raiseFault c n s).faultCode = c := rfl
@[simp] theorem raiseFault_faultInfo : (raiseFault c n s).faultInfo = n := rfl
@[simp] theorem raiseFault_waitX : (raiseFault c n s).waitX = s.waitX := rfl
@[simp] theorem raiseFault_prescaler : (raiseFault c n s).prescaler = s.prescaler := rfl
@[simp] theorem raiseFault_renderPending : (raiseFault c n s).renderPending = s.renderPending := rfl
@[simp] theorem raiseFault_exitReq : (raiseFault c n s).exitReq = s.exitReq := rfl
@[simp] theorem raiseFault_answers : (raiseFault c n s).answers = s.answers := rfl
@[simp] theorem raiseFault_out : (raiseFault c n s).out = s.out := rfl
@[simp] theorem raiseFault_epoch : (raiseFault c n s).epoch = s.epoch := rfl
@[simp] theorem raiseFault_inbox : (raiseFault c n s).inbox = s.inbox := rfl
@[simp] theorem raiseFault_now : (raiseFault c n s).now = s.now := rfl

end raiseFault

section storeBytes
variable (s : State) (a : Nat) (bs : List Byte)

@[simp] theorem storeBytes_v : (storeBytes a bs s).v = s.v := rfl
@[simp] theorem storeBytes_i : (storeBytes a bs s).i = s.i := rfl
@[simp] theorem storeBytes_pc : (storeBytes a bs s).pc = s.pc := rfl
@[simp] theorem storeBytes_dt : (storeBytes a bs s).dt = s.dt := rfl
@[simp] theorem storeBytes_st : (storeBytes a bs s).st = s.st := rfl
@[simp] theorem storeBytes_stack : (storeBytes a bs s).stack = s.stack := rfl
@[simp] theorem storeBytes_mem : (storeBytes a bs s).mem = s.mem.writeAll a bs := rfl
@[simp] theorem storeBytes_mode : (storeBytes a bs s).mode = s.mode := rfl
@[simp] theorem storeBytes_faultCode : (storeBytes a bs s).faultCode = s.faultCode := rfl
@[simp] theorem storeBytes_faultInfo : (storeBytes a bs s).faultInfo = s.faultInfo := rfl
@[simp] theorem storeBytes_waitX : (storeBytes a bs s).waitX = s.waitX := rfl
@[simp] theorem storeBytes_prescaler : (storeBytes a bs s).prescaler = s.prescaler := rfl
@[simp] theorem storeBytes_renderPending : (storeBytes a bs s).renderPending = s.renderPending := rfl
@[simp] theorem storeBytes_exitReq : (storeBytes a bs s).exitReq = s.exitReq := rfl
@[simp] theorem storeBytes_answers : (storeBytes a bs s).answers = s.answers := rfl
@[simp] theorem storeBytes_out : (storeBytes a bs s).out = s.out := rfl
@[simp] theorem storeBytes_epoch : (storeBytes a bs s).epoch = s.epoch := rfl
@[simp] theorem storeBytes_inbox : (storeBytes a bs s).inbox = s.inbox := rfl
@[simp] theorem storeBytes_now : (storeBytes a bs s).now = s.now := rfl

end storeBytes

section timerWriteDt
variable (s : State) (b : Byte)

@[simp] theorem timerWriteDt_v : (timerWriteDt b s).v = s.v := rfl
@[simp] theorem timerWriteDt_i : (timerWriteDt b s).i = s.i := rfl
@[simp] theorem timerWriteDt_pc : (timerWriteDt b s).pc = s.pc := rfl
@[simp] theorem timerWriteDt_dt : (timerWriteDt b s).dt = b := rfl
@[simp] theorem timerWriteDt_st : (timerWriteDt b s).st = s.st := rfl
@[simp] theorem timerWriteDt_stack : (timerWriteDt b s).stack = s.stack := rfl
@[simp] theorem timerWriteDt_mem : (timerWriteDt b s).mem = s.mem := rfl
@[simp] theorem timerWriteDt_mode : (timerWriteDt b s).mode = s.mode := rfl
@[simp] theorem timerWriteDt_faultCode : (timerWriteDt b s).faultCode = s.faultCode := rfl
@[simp] theorem timerWriteDt_faultInfo : (timerWriteDt b s).faultInfo = s.faultInfo := rfl
@[simp] theorem timerWriteDt_waitX : (timerWriteDt b s).waitX = s.waitX := rfl
@[simp] theorem timerWriteDt_prescaler : (timerWriteDt b s).prescaler = s.prescaler := rfl
@[simp] theorem timerWriteDt_renderPending : (timerWriteDt b s).renderPending = s.renderPending := rfl
@[simp] theorem timerWriteDt_exitReq : (timerWriteDt b s).exitReq = s.exitReq := rfl
@[simp] theorem timerWriteDt_answers : (timerWriteDt b s).answers = s.answers := rfl
@[simp] theorem timerWriteDt_out : (timerWriteDt b s).out = s.out := rfl
@[simp] theorem timerWriteDt_epoch : (timerWriteDt b s).epoch = s.epoch := rfl
@[simp] theorem timerWriteDt_inbox : (timerWriteDt b s).inbox = s.inbox := rfl
@[simp] theorem timerWriteDt_now : (timerWriteDt b s).now = s.now := rfl

end timerWriteDt

section timerWriteSt
variable (s : State) (b : Byte)

@[simp] theorem timerWriteSt_v : (timerWriteSt b s).v = s.v := rfl
@[simp] theorem timerWriteSt_i : (timerWriteSt b s).i = s.i := rfl
@[simp] theorem timerWriteSt_pc : (timerWriteSt b s).pc = s.pc := rfl
@[simp] theorem timerWriteSt_dt : (timerWriteSt b s).dt = s.dt := rfl
@[simp] theorem timerWriteSt_st : (timerWriteSt b s).st = b := rfl
@[simp] theorem timerWriteSt_stack : (timerWriteSt b s).stack = s.stack := rfl
@[simp] theorem timerWriteSt_mem : (timerWriteSt b s).mem = s.mem := rfl
@[simp] theorem timerWriteSt_mode : (timerWriteSt b s).mode = s.mode := rfl
@[simp] theorem timerWriteSt_faultCode : (timerWriteSt b s).faultCode = s.faultCode := rfl
@[simp] theorem timerWriteSt_faultInfo : (timerWriteSt b s).faultInfo = s.faultInfo := rfl
@[simp] theorem timerWriteSt_waitX : (timerWriteSt b s).waitX = s.waitX := rfl
@[simp] theorem timerWriteSt_prescaler : (timerWriteSt b s).prescaler = s.prescaler := rfl
@[simp] theorem timerWriteSt_renderPending : (timerWriteSt b s).renderPending = s.renderPending := rfl
@[simp] theorem timerWriteSt_exitReq : (timerWriteSt b s).exitReq = s.exitReq := rfl
@[simp] theorem timerWriteSt_answers : (timerWriteSt b s).answers = s.answers := rfl
@[simp] theorem timerWriteSt_out : (timerWriteSt b s).out = s.out := rfl
@[simp] theorem timerWriteSt_epoch : (timerWriteSt b s).epoch = s.epoch := rfl
@[simp] theorem timerWriteSt_inbox : (timerWriteSt b s).inbox = s.inbox := rfl
@[simp] theorem timerWriteSt_now : (timerWriteSt b s).now = s.now := rfl

end timerWriteSt

section timerTick
variable (s : State)

@[simp] theorem timerTick_v : (timerTick s).v = s.v := rfl
@[simp] theorem timerTick_i : (timerTick s).i = s.i := rfl
@[simp] theorem timerTick_pc : (timerTick s).pc = s.pc := rfl
@[simp] theorem timerTick_dt : (timerTick s).dt = if s.dt = 0 then 0 else s.dt - 1 := rfl
@[simp] theorem timerTick_st : (timerTick s).st = if s.st = 0 then 0 else s.st - 1 := rfl
@[simp] theorem timerTick_stack : (timerTick s).stack = s.stack := rfl
@[simp] theorem timerTick_mem : (timerTick s).mem = s.mem := rfl
@[simp] theorem timerTick_mode : (timerTick s).mode = s.mode := rfl
@[simp] theorem timerTick_faultCode : (timerTick s).faultCode = s.faultCode := rfl
@[simp] theorem timerTick_faultInfo : (timerTick s).faultInfo = s.faultInfo := rfl
@[simp] theorem timerTick_waitX : (timerTick s).waitX = s.waitX := rfl
@[simp] theorem timerTick_prescaler : (timerTick s).prescaler = s.prescaler := rfl
@[simp] theorem timerTick_renderPending : (timerTick s).renderPending = s.renderPending := rfl
@[simp] theorem timerTick_exitReq : (timerTick s).exitReq = s.exitReq := rfl
@[simp] theorem timerTick_answers : (timerTick s).answers = s.answers := rfl
@[simp] theorem timerTick_out : (timerTick s).out = s.out := rfl
@[simp] theorem timerTick_epoch : (timerTick s).epoch = s.epoch := rfl
@[simp] theorem timerTick_inbox : (timerTick s).inbox = s.inbox := rfl
@[simp] theorem timerTick_now : (timerTick s).now = s.now := rfl

end timerTick

end Sys2Proof.Machine
end

