-- ==== Sys2Proof/Laws/Memory.lean ====
section
/-! SUPPORT. The laws of memory: what a read gives after a write, and that every memory operation keeps the canonical form. -/

namespace Sys2Proof.Machine

theorem memory_wf_nil : Memory.wf [] := ⟨List.Pairwise.nil, by simp⟩

theorem reset_memory_wf : Memory.wf State.reset.mem := memory_wf_nil

/-- Every address listed after a write is the written one or was listed before. -/
theorem mem_write {m : Memory} {a : Nat} {b : Byte} {c : Host.Cell} (h : c ∈ m.write a b) : c = (a, b) ∨ c ∈ m := by
  induction m with
  | nil => simpa [Memory.write] using h
  | cons d rest ih =>
    obtain ⟨e, w⟩ := d
    simp only [Memory.write] at h
    split at h
    · simpa using h
    · split at h
      · rcases List.mem_cons.1 h with h | h
        · exact .inl h
        · exact .inr (List.mem_cons_of_mem _ h)
      · rcases List.mem_cons.1 h with h | h
        · exact .inr (by simp [h])
        · rcases ih h with h | h
          · exact .inl h
          · exact .inr (List.mem_cons_of_mem _ h)

/-- A write to a cell of the hardware keeps the canonical form. -/
theorem write_wf {m : Memory} {a : Nat} {b : Byte} (hm : m.wf) (ha : a < Config.memSize) : (m.write a b).wf := by
  refine ⟨?_, fun c hc => ?_⟩
  · have hs := hm.1
    clear hm
    induction m with
    | nil => simp [Memory.write]
    | cons d rest ih =>
      obtain ⟨e, w⟩ := d
      obtain ⟨hd, hr⟩ := List.pairwise_cons.1 hs
      simp only [Memory.write]
      split
      · rename_i hae
        refine List.pairwise_cons.2 ⟨fun c hc => ?_, hs⟩
        rcases List.mem_cons.1 hc with h | h
        · simpa [h] using hae
        · exact Nat.lt_trans hae (hd c h)
      · split
        · rename_i _ hae
          subst hae
          exact List.pairwise_cons.2 ⟨hd, hr⟩
        · refine List.pairwise_cons.2 ⟨fun c hc => ?_, ih hr⟩
          rcases mem_write hc with h | h
          · subst h; simp only; omega
          · exact hd c h
  · rcases mem_write hc with h | h
    · simpa [h] using ha
    · exact hm.2 c h

/-- Writing consecutive cells of the hardware keeps the canonical form. -/
theorem writeAll_wf {m : Memory} {a : Nat} {bs : List Byte} (hm : m.wf) (h : a + bs.length ≤ Config.memSize) :
    (m.writeAll a bs).wf := by
  induction bs generalizing m a with
  | nil => simpa [Memory.writeAll] using hm
  | cons b bs ih =>
    simp only [List.length_cons] at h
    exact ih (write_wf hm (by omega)) (by omega)

/-- A read after a write: the byte written at that address, and every other address as it was. -/
theorem cell_write (m : Memory) (a : Nat) (b : Byte) (c : Nat) (hm : m.wf) :
    (m.write a b).cell c = if c = a then some b else m.cell c := by
  have hs := hm.1
  clear hm
  induction m with
  | nil => simp [Memory.write, Memory.cell]
  | cons d rest ih =>
    obtain ⟨e, w⟩ := d
    obtain ⟨hd, hr⟩ := List.pairwise_cons.1 hs
    simp only [Memory.write]
    split
    · simp [Memory.cell]
    · split
      · rename_i _ hae
        subst hae
        by_cases hc : c = a <;> simp [Memory.cell, hc]
      · simp only [Memory.cell, ih hr]
        by_cases hce : c = e <;> by_cases hca : c = a <;> simp_all

/-- The same without the canonical form, where the address read is another one. -/
theorem cell_write_of_ne (m : Memory) {a c : Nat} (b : Byte) (h : c ≠ a) : (m.write a b).cell c = m.cell c := by
  induction m with
  | nil => simp [Memory.write, Memory.cell, h]
  | cons d rest ih =>
    obtain ⟨e, w⟩ := d
    simp only [Memory.write]
    split
    · simp [Memory.cell, h]
    · split
      · rename_i _ hae
        subst hae
        simp [Memory.cell, h]
      · simp [Memory.cell, ih]

/-- The same without the canonical form, at the address written. -/
theorem cell_write_self (m : Memory) (a : Nat) (b : Byte) : (m.write a b).cell a = some b := by
  induction m with
  | nil => simp [Memory.write, Memory.cell]
  | cons d rest ih =>
    obtain ⟨e, w⟩ := d
    simp only [Memory.write]
    split
    · simp [Memory.cell]
    · split
      · simp [Memory.cell]
      · rename_i h
        simp [Memory.cell, ih, h]

/-- What a cell holds after consecutive writes: the byte stored there, else what it held. -/
theorem cell_writeAll (m : Memory) (a : Nat) (bs : List Byte) (c : Nat) :
    (m.writeAll a bs).cell c = if h : a ≤ c ∧ c < a + bs.length then some (bs[c - a]'(by omega)) else m.cell c := by
  induction bs generalizing m a with
  | nil =>
    have : ¬ (a ≤ c ∧ c < a) := by omega
    simp [Memory.writeAll, this]
  | cons b bs ih =>
    simp only [Memory.writeAll, ih, List.length_cons]
    by_cases h1 : a + 1 ≤ c ∧ c < a + 1 + bs.length
    · have h2 : a ≤ c ∧ c < a + (bs.length + 1) := by omega
      have h3 : c - a = (c - (a + 1)) + 1 := by omega
      rw [dif_pos h1, dif_pos h2]
      simp [h3]
    · rw [dif_neg h1]
      by_cases hc : c = a
      · subst hc
        simp [cell_write_self]
      · have h2 : ¬ (a ≤ c ∧ c < a + (bs.length + 1)) := by omega
        rw [dif_neg h2, cell_write_of_ne _ _ hc]

/-- Two canonical memories that say the same of every address are equal. -/
theorem memory_ext {m n : Memory} (hm : m.wf) (hn : n.wf) (h : ∀ a, m.cell a = n.cell a) : m = n := by
  have hms := hm.1
  have hns := hn.1
  clear hm hn
  have none_below : ∀ {l : Memory} {a : Nat}, (∀ c ∈ l, a < c.1) → l.cell a = none := by
    intro l a hl
    induction l with
    | nil => rfl
    | cons d rest ih =>
      have hd := hl d (by simp)
      simp only [Memory.cell]
      rw [if_neg (by omega)]
      exact ih fun c hc => hl c (List.mem_cons_of_mem _ hc)
  induction m generalizing n with
  | nil =>
    cases n with
    | nil => rfl
    | cons d rest =>
      have := h d.1
      simp [Memory.cell] at this
  | cons c m ih =>
    obtain ⟨a, b⟩ := c
    cases n with
    | nil =>
      have := h a
      simp [Memory.cell] at this
    | cons d n =>
      obtain ⟨e, w⟩ := d
      obtain ⟨hm1, hm2⟩ := List.pairwise_cons.1 hms
      obtain ⟨hn1, hn2⟩ := List.pairwise_cons.1 hns
      have hae : a = e := by
        rcases Nat.lt_trichotomy a e with hlt | heq | hlt
        · have h1 := h a
          rw [none_below (l := (e, w) :: n) (by
            intro c hc
            rcases List.mem_cons.1 hc with h | h
            · simpa [h] using hlt
            · exact Nat.lt_trans hlt (hn1 c h))] at h1
          simp [Memory.cell] at h1
        · exact heq
        · have h1 := h e
          rw [none_below (l := (a, b) :: m) (by
            intro c hc
            rcases List.mem_cons.1 hc with h | h
            · simpa [h] using hlt
            · exact Nat.lt_trans hlt (hm1 c h))] at h1
          simp [Memory.cell] at h1
      subst hae
      have hbw : b = w := by simpa [Memory.cell] using h a
      subst hbw
      congr 1
      refine ih (fun x => ?_) hm2 hn2
      by_cases hx : x = a
      · subst hx
        rw [none_below hm1, none_below hn1]
      · simpa [Memory.cell, hx] using h x

/-- What a read gives after consecutive stores: the byte stored there, else what it gave before. -/
theorem readByte_storeBytes (s : State) (a : Nat) (bs : List Byte) (c : Nat) :
    readByte (storeBytes a bs s) c = if h : a ≤ c ∧ c < a + bs.length then bs[c - a]'(by omega) else readByte s c := by
  simp only [readByte, storeBytes_mem, storeBytes_epoch, cell_writeAll]
  split <;> simp

end Sys2Proof.Machine
end

