-- ==== Sys2Proof/Laws/Ops.lean ====
section
/-! SUPPORT. One lemma per shared operation that says everything it can do; proofs cite it instead of unfolding the
operation. -/

namespace Sys2Proof.Machine

/-- What register `y` holds after `V[x] <- b`. -/
theorem getV_setV (s : State) (x y : Reg) (b : Byte) : getV (setV x b s) y = if y = x then b else getV s y := by
  simp only [getV, setV_v, Fin.getElem_fin, Vector.getElem_set, Fin.ext_iff]
  by_cases h : x.val = y.val
  · simp [h]
  · simp [h, Ne.symm h]

theorem getV_of_v {s t : State} (h : t.v = s.v) (x : Reg) : getV t x = getV s x := by simp [getV, h]

/-- A read looks at the listed cells and the reset count only. -/
theorem readByte_congr {s t : State} (hm : t.mem = s.mem) (he : t.epoch = s.epoch) (a : Nat) :
    readByte t a = readByte s a := by simp [readByte, hm, he]

@[simp] theorem readBytes_length (s : State) (a len : Nat) : (readBytes s a len).length = len := by simp [readBytes]

@[simp] theorem readBytes_getElem (s : State) (a len k : Nat) (h : k < (readBytes s a len).length) :
    (readBytes s a len)[k] = readByte s (a + k) := by simp [readBytes]

@[simp] theorem regsUpTo_length (s : State) (x : Reg) : (regsUpTo s x).length = x.val + 1 := by
  have := x.isLt
  simp [regsUpTo]

@[simp] theorem regsUpTo_getElem (s : State) (x : Reg) (k : Nat) (h : k < (regsUpTo s x).length) :
    (regsUpTo s x)[k] = getV s ⟨k, by simp at h; omega⟩ := by
  simp [regsUpTo, getV]

/-- What register `r` holds after the bytes are loaded from register `k` up. -/
theorem loadRegs_getElem (bs : List Byte) (k : Nat) (v : Vector Byte 16) (r : Nat) (hr : r < 16) :
    (loadRegs bs k v)[r] = if h : k ≤ r ∧ r < k + bs.length then bs[r - k]'(by omega) else v[r] := by
  induction bs generalizing k v with
  | nil =>
    have : ¬ (k ≤ r ∧ r < k) := by omega
    simp [loadRegs, this]
  | cons b bs ih =>
    simp only [loadRegs, ih, List.length_cons]
    by_cases h1 : k + 1 ≤ r ∧ r < k + 1 + bs.length
    · have h2 : k ≤ r ∧ r < k + (bs.length + 1) := by omega
      have h3 : r - k = (r - (k + 1)) + 1 := by omega
      rw [dif_pos h1, dif_pos h2]
      simp [h3]
    · rw [dif_neg h1]
      by_cases hk : r = k
      · subst hk
        simp
      · have h2 : ¬ (k ≤ r ∧ r < k + (bs.length + 1)) := by omega
        rw [dif_neg h2, Vector.getElem_setIfInBounds_ne hr (Ne.symm hk)]

/-- The range check: the effect when the access is in bounds, fault entry when it is not. -/
theorem checkedAccess_cases (len : Nat) (s : State) (f : State → State) :
    (accessInBounds (dataBase s) len = true ∧ checkedAccess len s f = f s) ∨
    (accessInBounds (dataBase s) len = false ∧
      checkedAccess len s f = raiseFault .outOfBounds (BitVec.ofNat 17 (dataBase s + len - 1)) s) := by
  unfold checkedAccess
  cases accessInBounds (dataBase s) len <;> simp

/-- When an access is in bounds, in numbers. -/
theorem accessInBounds_iff (a len : Nat) : accessInBounds a len = true ↔ len = 0 ∨ a + len ≤ 4096 := by
  unfold accessInBounds Config.memSize
  by_cases h : a + len - 1 < 4096 <;> simp [h] <;> omega

/-- A push: fault entry on a full stack, the effect on the longer stack otherwise. -/
theorem push_cases (w : Word) (s : State) (f : State → State) :
    (Config.stackFull s.stack.length = true ∧ push w s f = raiseFault .stackOverflow (w.setWidth 17) s) ∨
    (Config.stackFull s.stack.length = false ∧ push w s f = f { s with stack := w :: s.stack }) := by
  unfold push
  cases Config.stackFull s.stack.length <;> simp

/-- A pop: fault entry on an empty stack, the effect on the shorter stack otherwise. -/
theorem pop_cases (s : State) (f : Word → State → State) :
    (s.stack = [] ∧ pop s f = raiseFault .stackUnderflow 0 s) ∨
    (∃ w rest, s.stack = w :: rest ∧ pop s f = f w { s with stack := rest }) := by
  unfold pop
  split
  · exact .inl ⟨‹_›, rfl⟩
  · exact .inr ⟨_, _, ‹_›, rfl⟩

/-- A full stack has exactly the depth `STACK_DEPTH`. -/
theorem stackFull_iff (d : Nat) : Config.stackFull d = true ↔ Config.stackDepth = some d := by
  cases d with
  | zero => simp [Config.stackFull, Config.stackDepth]
  | succ d => simp [Config.stackFull]

/-- A skip: `PC` plus 2, or nothing. -/
theorem skipIf_cases (b : Bool) (s : State) :
    (b = true ∧ skipIf b s = setPc (s.pc + 2) s) ∨ (b = false ∧ skipIf b s = s) := by
  cases b <;> simp [skipIf]

/-- A flag-writing instruction: the flag from the state before, `V[x]` from the state with the flag written. -/
theorem flagThenResult_eq (flag : State → Byte) (x : Reg) (result : State → Byte) (s : State) :
    flagThenResult flag x result s = setV x (result (setV flagReg (flag s) s)) (setV flagReg (flag s) s) := rfl

/-- The beginning of step 2: in `RUNNING` a render request goes out, in every other mode nothing happens. -/
theorem requestRender_cases (s : State) :
    (s.mode = .running ∧ requestRender s = { emit .render s with renderPending := true }) ∨
    (s.mode ≠ .running ∧ requestRender s = s) := by
  unfold requestRender
  cases h : s.mode <;> simp

/-- The exit check: the mode follows `exit_req`, and nothing else changes. -/
theorem exitCheck_eq (s : State) : exitCheck s = { s with mode := if s.exitReq then .stopped else s.mode } := by
  unfold exitCheck
  by_cases h : s.exitReq = true
  · rw [if_pos h, if_pos h]
  · rw [if_neg h, if_neg h]

/-- An acceptance: the outstanding request is over and the mode follows `exit_req`; with none outstanding, nothing. -/
theorem acceptRender_cases (s : State) :
    (s.mode = .running ∧ s.renderPending = true ∧
      acceptRender s = { s with renderPending := false, mode := if s.exitReq then .stopped else .running }) ∨
    (¬ (s.mode = .running ∧ s.renderPending = true) ∧ acceptRender s = s) := by
  unfold acceptRender
  by_cases h : s.mode = .running ∧ s.renderPending = true
  · refine .inl ⟨h.1, h.2, ?_⟩
    rw [if_pos h, exitCheck_eq, h.1]
  · exact .inr ⟨h, if_neg h⟩

/-- A clock period: nothing while disabled; else a tick when the prescaler wraps, and a count otherwise. -/
theorem clockPeriod_cases (s : State) :
    (timerRun s = false ∧ clockPeriod s = s) ∨
    (timerRun s = true ∧ s.prescaler + 1 = Config.tickDiv ∧ clockPeriod s = timerTick { s with prescaler := 0 }) ∨
    (timerRun s = true ∧ s.prescaler + 1 ≠ Config.tickDiv ∧
      clockPeriod s = { s with prescaler := s.prescaler + 1 }) := by
  unfold clockPeriod
  by_cases h : timerRun s = true <;> by_cases h2 : s.prescaler + 1 = Config.tickDiv <;> simp [h, h2]

theorem tickDiv_pos : 0 < Config.tickDiv := Nat.succ_pos _

end Sys2Proof.Machine
end

