-- ==== Sys2Proof/Laws/PerInstr.lean ====
section
/-! SUPPORT. Per-instruction laws about instructions as syntax. Family RowMatch: the word of an instruction is a word of its row
of the opcode map (R66). -/

namespace Sys2Proof.Laws.RowMatch

/-- The encoding of the instruction matches its row of the opcode map under the row's mask (R66). -/
def Statement (i : Instr) : Prop := encode i &&& i.rowMask = i.rowMatch

theorem formatA_class (op : BitVec 4) (nnn : BitVec 12) : formatA op nnn &&& 0xF000 = formatA op 0 := by
  have h : (0xF000 : Word) = formatA 0xF 0 := by decide
  rw [h]
  apply BitVec.eq_of_getLsbD_eq
  intro k hk
  simp only [BitVec.getLsbD_and, getLsbD_formatA]
  by_cases hk : k < 12
  · simp [hk]
  · have h4 : (0xF#4).getLsbD (k - 12) = true := by
      have : k - 12 = 0 ∨ k - 12 = 1 ∨ k - 12 = 2 ∨ k - 12 = 3 := by omega
      rcases this with h | h | h | h <;> rw [h] <;> decide
    simp [hk, h4]

theorem formatXK_class (op : BitVec 4) (x : Reg) (kk : Byte) : formatXK op x kk &&& 0xF000 = formatA op 0 :=
  formatA_class op _

theorem formatXY_class (op : BitVec 4) (x y : Reg) (n : BitVec 4) : formatXY op x y n &&& 0xF000 = formatA op 0 :=
  formatA_class op _

theorem formatXK_subkey (op : BitVec 4) (x : Reg) (kk : Byte) : formatXK op x kk &&& 0xF0FF = formatXK op 0 kk := by
  have h : (0xF0FF : Word) = formatA 0xF 0x0FF := by decide
  rw [h]
  apply BitVec.eq_of_getLsbD_eq
  intro k hk
  simp only [BitVec.getLsbD_and, getLsbD_formatA, getLsbD_formatXK]
  by_cases h12 : k < 12
  · by_cases h8 : k < 8
    · have h1 : (0x0FF : BitVec 12).getLsbD k = true := by
        have : ∀ j : Fin 8, (0x0FF : BitVec 12).getLsbD j.val = true := by decide
        exact this ⟨k, h8⟩
      simp only [if_pos h12, if_pos h8, h1, Bool.and_true]
    · have h1 : (0x0FF : BitVec 12).getLsbD k = false := by
        have : ∀ j : Fin 4, (0x0FF : BitVec 12).getLsbD (8 + j.val) = false := by decide
        have := this ⟨k - 8, by omega⟩
        rwa [show 8 + (k - 8) = k by omega] at this
      have h2 : (bitsOfReg 0).getLsbD (k - 8) = false := by
        have : bitsOfReg 0 = 0 := by decide
        simp [this]
      simp only [if_pos h12, if_neg h8, h1, h2, Bool.and_false]
  · have h4 : (0xF#4).getLsbD (k - 12) = true := by
      have : k - 12 = 0 ∨ k - 12 = 1 ∨ k - 12 = 2 ∨ k - 12 = 3 := by omega
      rcases this with h | h | h | h <;> rw [h] <;> decide
    simp [h12, h4]

theorem formatXY_subkey (op : BitVec 4) (x y : Reg) (n : BitVec 4) :
    formatXY op x y n &&& 0xF00F = formatXY op 0 0 n := by
  have h : (0xF00F : Word) = formatA 0xF 0x00F := by decide
  rw [h]
  apply BitVec.eq_of_getLsbD_eq
  intro k hk
  simp only [BitVec.getLsbD_and, getLsbD_formatA, getLsbD_formatXY]
  have h0 : ∀ j, (bitsOfReg 0).getLsbD j = false := by
    have : bitsOfReg 0 = 0 := by decide
    simp [this]
  by_cases h12 : k < 12
  · by_cases h4 : k < 4
    · have h1 : (0x00F : BitVec 12).getLsbD k = true := by
        have : ∀ j : Fin 4, (0x00F : BitVec 12).getLsbD j.val = true := by decide
        exact this ⟨k, h4⟩
      have h8 : k < 8 := by omega
      simp only [if_pos h12, if_pos h8, if_pos h4, h1, Bool.and_true]
    · have h1 : (0x00F : BitVec 12).getLsbD k = false := by
        have : ∀ j : Fin 8, (0x00F : BitVec 12).getLsbD (4 + j.val) = false := by decide
        have := this ⟨k - 4, by omega⟩
        rwa [show 4 + (k - 4) = k by omega] at this
      by_cases h8 : k < 8
      · simp only [if_pos h12, if_pos h8, if_neg h4, h1, h0, Bool.and_false]
      · simp only [if_pos h12, if_neg h8, h1, h0, Bool.and_false]
  · have h4 : (0xF#4).getLsbD (k - 12) = true := by
      have : k - 12 = 0 ∨ k - 12 = 1 ∨ k - 12 = 2 ∨ k - 12 = 3 := by omega
      rcases this with h | h | h | h <;> rw [h] <;> decide
    simp [h12, h4]

theorem cls : Statement (.cls) :=
  show encode .cls &&& Instr.rowMask .cls = Instr.rowMatch .cls by decide

theorem ret : Statement (.ret) :=
  show encode .ret &&& Instr.rowMask .ret = Instr.rowMatch .ret by decide

theorem jp (nnn : BitVec 12) : Statement (.jp nnn) := (formatA_class 0x1 nnn).trans rfl

theorem call (nnn : BitVec 12) : Statement (.call nnn) := (formatA_class 0x2 nnn).trans rfl

theorem seVxKk (x : Reg) (kk : Byte) : Statement (.seVxKk x kk) := (formatXK_class 0x3 x kk).trans rfl

theorem sneVxKk (x : Reg) (kk : Byte) : Statement (.sneVxKk x kk) := (formatXK_class 0x4 x kk).trans rfl

theorem seVxVy (x y : Reg) (n : BitVec 4) : Statement (.seVxVy x y n) := (formatXY_class 0x5 x y n).trans rfl

theorem ldVxKk (x : Reg) (kk : Byte) : Statement (.ldVxKk x kk) := (formatXK_class 0x6 x kk).trans rfl

theorem addVxKk (x : Reg) (kk : Byte) : Statement (.addVxKk x kk) := (formatXK_class 0x7 x kk).trans rfl

theorem ldVxVy (x y : Reg) : Statement (.ldVxVy x y) := (formatXY_subkey 0x8 x y 0x0).trans rfl

theorem orVxVy (x y : Reg) : Statement (.orVxVy x y) := (formatXY_subkey 0x8 x y 0x1).trans rfl

theorem andVxVy (x y : Reg) : Statement (.andVxVy x y) := (formatXY_subkey 0x8 x y 0x2).trans rfl

theorem xorVxVy (x y : Reg) : Statement (.xorVxVy x y) := (formatXY_subkey 0x8 x y 0x3).trans rfl

theorem addVxVy (x y : Reg) : Statement (.addVxVy x y) := (formatXY_subkey 0x8 x y 0x4).trans rfl

theorem subVxVy (x y : Reg) : Statement (.subVxVy x y) := (formatXY_subkey 0x8 x y 0x5).trans rfl

theorem shrVx (x y : Reg) : Statement (.shrVx x y) := (formatXY_subkey 0x8 x y 0x6).trans rfl

theorem subnVxVy (x y : Reg) : Statement (.subnVxVy x y) := (formatXY_subkey 0x8 x y 0x7).trans rfl

theorem shlVx (x y : Reg) : Statement (.shlVx x y) := (formatXY_subkey 0x8 x y 0xe).trans rfl

theorem sneVxVy (x y : Reg) (n : BitVec 4) : Statement (.sneVxVy x y n) := (formatXY_class 0x9 x y n).trans rfl

theorem ldINnn (nnn : BitVec 12) : Statement (.ldINnn nnn) := (formatA_class 0xa nnn).trans rfl

theorem jpV0Nnn (nnn : BitVec 12) : Statement (.jpV0Nnn nnn) := (formatA_class 0xb nnn).trans rfl

theorem rndVxKk (x : Reg) (kk : Byte) : Statement (.rndVxKk x kk) := (formatXK_class 0xc x kk).trans rfl

theorem drwVxVyN (x y : Reg) (n : BitVec 4) : Statement (.drwVxVyN x y n) := (formatXY_class 0xd x y n).trans rfl

theorem skpVx (x : Reg) : Statement (.skpVx x) := (formatXK_subkey 0xe x 0x9e).trans rfl

theorem sknpVx (x : Reg) : Statement (.sknpVx x) := (formatXK_subkey 0xe x 0xa1).trans rfl

theorem ldVxDt (x : Reg) : Statement (.ldVxDt x) := (formatXK_subkey 0xf x 0x7).trans rfl

theorem ldVxK (x : Reg) : Statement (.ldVxK x) := (formatXK_subkey 0xf x 0xa).trans rfl

theorem ldDtVx (x : Reg) : Statement (.ldDtVx x) := (formatXK_subkey 0xf x 0x15).trans rfl

theorem ldStVx (x : Reg) : Statement (.ldStVx x) := (formatXK_subkey 0xf x 0x18).trans rfl

theorem addIVx (x : Reg) : Statement (.addIVx x) := (formatXK_subkey 0xf x 0x1e).trans rfl

theorem ldFVx (x : Reg) : Statement (.ldFVx x) := (formatXK_subkey 0xf x 0x29).trans rfl

theorem ldBVx (x : Reg) : Statement (.ldBVx x) := (formatXK_subkey 0xf x 0x33).trans rfl

theorem ldMemIVx (x : Reg) : Statement (.ldMemIVx x) := (formatXK_subkey 0xf x 0x55).trans rfl

theorem ldVxMemI (x : Reg) : Statement (.ldVxMemI x) := (formatXK_subkey 0xf x 0x65).trans rfl

end Sys2Proof.Laws.RowMatch
end

