-- ==== Sys2Proof/Tests/Slice0.lean ====
section
/-! SUPPORT. The model's own tests. Expected values are the spec's: the words of R66, the vectors of 95_test_vectors.md, the
examples of the instruction rules. The last part shows, for each statement with hypotheses, that something meets them. -/

namespace Sys2Proof.Tests

open Sys2Proof Sys2Proof.Machine

/-! ### Helpers -/

/-- The answers of the spec's vectors: the random byte of T110, a collision, a key that is down. -/
def answers : Answers := ⟨0xA7, true, false⟩

/-- The core about to execute an instruction fetched at 0x200, with some registers set. -/
def start (regs : List (Reg × Byte)) : State :=
  regs.foldl (fun s r => setV r.1 r.2 s) { State.reset with mode := .running, pc := 0x202, answers := answers }

/-- The state an outcome leads to. -/
def after : Result → State
  | .next s => s
  | .fault _ => State.reset
  | .refused _ => State.reset

/-- The core running after reset, a word at 0x200, the core's turn next. -/
def placed (w : Nat) : State := State.withFetchWord { State.reset with answers := answers } 16 w

/-- The same with `V[0] = 3`. -/
def delayed (w : Nat) : State := State.withFetchWord (start [(0, 3)]) 16 w

/-- The state after reset but for the mode, with one move settled. -/
def soon (e : Event) (m : Mode) : State := { State.reset with mode := m, inbox := [e] }

/-- A register of the state an outcome leads to. -/
def reg (r : Result) (x : Reg) : Byte := getV (after r) x

/-! ### Well-formedness: an ill-formed term for each check (R67, R72) -/

theorem test_wellFormed_seVxVy : (Instr.seVxVy 0 1 1).wellFormed = false ∧ (Instr.seVxVy 0 1 0).wellFormed = true := by
  decide

theorem test_wellFormed_sneVxVy : (Instr.sneVxVy 0 1 2).wellFormed = false ∧ (Instr.sneVxVy 0 1 0).wellFormed = true := by
  decide

theorem test_wellFormed_shrVx : (Instr.shrVx 2 3).wellFormed = false ∧ (Instr.shrVx 2 0).wellFormed = true := by decide

theorem test_wellFormed_shlVx : (Instr.shlVx 2 3).wellFormed = false ∧ (Instr.shlVx 2 0).wellFormed = true := by decide

/-! ### Decoding: every constructor from a word written out from the table (R62, R66), then the illegal space (R68) -/

theorem test_decode_control_flow :
    decodeWord 0b0000000011101110 = .ok .ret ∧ decodeWord 0b0001001000110100 = .ok (.jp 0x234) ∧
    decodeWord 0b0010101010111100 = .ok (.call 0xABC) ∧ decodeWord 0b0011001101000010 = .ok (.seVxKk 3 0x42) ∧
    decodeWord 0b0100001101000011 = .ok (.sneVxKk 3 0x43) ∧ decodeWord 0b0101101010110000 = .ok (.seVxVy 0xA 0xB 0) ∧
    decodeWord 0b1001000000010010 = .ok (.sneVxVy 0 1 2) ∧ decodeWord 0b1011001100000000 = .ok (.jpV0Nnn 0x300) := by
  decide

theorem test_decode_loads_and_logic :
    decodeWord 0b0110111110101011 = .ok (.ldVxKk 0xF 0xAB) ∧ decodeWord 0b0111000111111111 = .ok (.addVxKk 1 0xFF) ∧
    decodeWord 0b1000000100100000 = .ok (.ldVxVy 1 2) ∧ decodeWord 0b1000000000010001 = .ok (.orVxVy 0 1) ∧
    decodeWord 0b1000000000010010 = .ok (.andVxVy 0 1) ∧ decodeWord 0b1000000000010011 = .ok (.xorVxVy 0 1) := by
  decide

theorem test_decode_flag_writers :
    decodeWord 0b1000000011110100 = .ok (.addVxVy 0 0xF) ∧ decodeWord 0b1000000100100101 = .ok (.subVxVy 1 2) ∧
    decodeWord 0b1000001000110110 = .ok (.shrVx 2 3) ∧ decodeWord 0b1000000100000111 = .ok (.subnVxVy 1 0) ∧
    decodeWord 0b1000001000111110 = .ok (.shlVx 2 3) := by
  decide

theorem test_decode_address_and_memory :
    decodeWord 0b1010000100100011 = .ok (.ldINnn 0x123) ∧ decodeWord 0b1111001000011110 = .ok (.addIVx 2) ∧
    decodeWord 0b1111001100101001 = .ok (.ldFVx 3) ∧ decodeWord 0b1111000000110011 = .ok (.ldBVx 0) ∧
    decodeWord 0b1111000101010101 = .ok (.ldMemIVx 1) ∧ decodeWord 0b1111001001100101 = .ok (.ldVxMemI 2) := by
  decide

theorem test_decode_random_and_timers :
    decodeWord 0b1100000100001111 = .ok (.rndVxKk 1 0x0F) ∧ decodeWord 0b1111001100000111 = .ok (.ldVxDt 3) ∧
    decodeWord 0b1111000000010101 = .ok (.ldDtVx 0) ∧ decodeWord 0b1111010000011000 = .ok (.ldStVx 4) := by
  decide

theorem test_decode_display_and_keys :
    decodeWord 0b0000000011100000 = .ok .cls ∧ decodeWord 0b1101000000010101 = .ok (.drwVxVyN 0 1 5) ∧
    decodeWord 0b1110001010011110 = .ok (.skpVx 2) ∧ decodeWord 0b1110001010100001 = .ok (.sknpVx 2) ∧
    decodeWord 0b1111001100001010 = .ok (.ldVxK 3) := by
  decide

/-- T5 to T10. -/
theorem test_decode_illegal :
    [0x0000#16, 0x01E0, 0x00E1, 0x00FF, 0x0EEE, 0x8008, 0x812F, 0x8AB9, 0xE000, 0xE19F, 0xE2A0, 0xF000, 0xF108, 0xF075,
      0xF085, 0xF1FF].all (fun w => decodeWord w == .error (.illegalInstruction w)) = true := by
  decide

/-- Big-endian bytes with a rest (T1), too few bytes, and the numbering of the opcode table. -/
theorem test_decode_bytes :
    decode [0x12, 0x34, 0x56] = .ok (.jp 0x234, [0x56]) ∧ decode [0x12] = .error .truncated ∧
    decodeTableWord 16 0x1234 = some (.jp 0x234) ∧ decodeTableWord 16 0x0000 = none := by
  decide

/-- The encoder against words of the table. -/
theorem test_encode :
    encode .cls = 0x00E0 ∧ encode (.addVxVy 0 1) = 0x8014 ∧ encode (.drwVxVyN 0 1 5) = 0xD015 ∧
    encodeBytes (.jp 0x234) = [0x12, 0x34] := by
  decide

/-! ### Control flow (95 2.2) -/

/-- T24, T23. -/
theorem test_ret : (after (exec .ret { start [] with stack := [0x0FFF] })).pc = 0x0FFF := by decide

theorem test_ret_underflow :
    let t := after (exec .ret (start []))
    t.faultCode.number = 3 ∧ t.faultInfo = 0 ∧ t.pc = 0x202 ∧ t.stack = [] ∧ t.mode = .halted := by
  decide

/-- T1. -/
theorem test_jp : (after (exec (.jp 0x234) (start []))).pc = 0x234 := by decide

/-- T21. -/
theorem test_call :
    let t := after (exec (.call 0xABC) (start []))
    t.stack = [0x202] ∧ t.pc = 0xABC := by
  decide

/-- T25: a stack at `STACK_DEPTH`. -/
theorem test_call_overflow (d : Nat) (h : Config.stackDepth = some d) :
    let t := after (exec (.call 0x200) { start [] with stack := List.replicate d 0x202 })
    t.faultCode.number = 4 ∧ t.faultInfo = 0x202 ∧ t.pc = 0x202 ∧ t.stack.length = d := by
  cases d with
  | zero => simp [Config.stackDepth] at h
  | succ d => simp [exec, execCall, push, Config.stackFull, h, after, raiseFault, FaultCode.number, start]

/-- T26, T27. -/
theorem test_skip_immediate :
    (after (exec (.seVxKk 3 0x42) (start [(3, 0x42)]))).pc = 0x204 ∧
    (after (exec (.seVxKk 3 0x43) (start [(3, 0x42)]))).pc = 0x202 ∧
    (after (exec (.sneVxKk 3 0x42) (start [(3, 0x42)]))).pc = 0x202 ∧
    (after (exec (.sneVxKk 3 0x43) (start [(3, 0x42)]))).pc = 0x204 := by
  decide

/-- T29, T28. -/
theorem test_skip_registers :
    (after (exec (.seVxVy 0xA 0xB 0) (start [(0xA, 1), (0xB, 2)]))).pc = 0x202 ∧
    (after (exec (.sneVxVy 0xA 0xB 0) (start [(0xA, 1), (0xB, 2)]))).pc = 0x204 ∧
    (after (exec (.seVxVy 7 7 0) (start []))).pc = 0x204 ∧ (after (exec (.sneVxVy 7 7 0) (start []))).pc = 0x202 := by
  decide

/-- T30: a skip taken at the last fetchable address. -/
theorem test_skip_beyond_memory :
    (after (step (State.withFetchWord { start [] with pc := 0xFFE } 16 0x3000))).pc = 0x1002 := by
  decide

/-- T33, T34. -/
theorem test_jpV0Nnn :
    (after (exec (.jpV0Nnn 0xFFF) (start [(0, 0xFF)]))).pc = 0x10FE ∧
    (after (exec (.jpV0Nnn 0x200) (start [(0, 0x01), (2, 0x77)]))).pc = 0x201 := by
  decide

/-! ### Register load, arithmetic, logic (95 2.3) -/

/-- T40. -/
theorem test_ldVxKk : reg (exec (.ldVxKk 0xF 0xAB) (start [])) 0xF = 0xAB := by decide

/-- T41, T42. -/
theorem test_addVxKk :
    reg (exec (.addVxKk 1 0x01) (start [(1, 0xFF)])) 1 = 0x00 ∧ reg (exec (.addVxKk 1 0x01) (start [(1, 0xFF)])) 0xF = 0 ∧
    reg (exec (.addVxKk 1 0xFF) (start [(1, 0x0A)])) 1 = 0x09 := by
  decide

/-- T43. -/
theorem test_ldVxVy : reg (exec (.ldVxVy 1 2) (start [(2, 0x7C)])) 1 = 0x7C := by decide

/-- T44. -/
theorem test_orVxVy :
    let r := exec (.orVxVy 0 1) (start [(0, 0xF0), (1, 0x0F), (0xF, 0x5A)])
    reg r 0 = 0xFF ∧ reg r 0xF = 0x5A := by
  decide

/-- T45. -/
theorem test_andVxVy :
    let r := exec (.andVxVy 0 1) (start [(0, 0xF3), (1, 0x3F), (0xF, 0x5A)])
    reg r 0 = 0x33 ∧ reg r 0xF = 0x5A := by
  decide

/-- T46. -/
theorem test_xorVxVy :
    let r := exec (.xorVxVy 0 1) (start [(0, 0xFF), (1, 0x0F), (0xF, 0x5A)])
    reg r 0 = 0xF0 ∧ reg r 0xF = 0x5A := by
  decide

/-- T47, T48. -/
theorem test_addVxVy :
    let r := exec (.addVxVy 0 1) (start [(0, 0xFF), (1, 0x01)])
    let q := exec (.addVxVy 0 1) (start [(0, 0xFE), (1, 0x01)])
    reg r 0 = 0x00 ∧ reg r 0xF = 1 ∧ reg q 0 = 0xFF ∧ reg q 0xF = 0 := by
  decide

/-- T51, T53, T54: the flag register as an operand. -/
theorem test_addVxVy_flag_operand :
    reg (exec (.addVxVy 0 0xF) (start [(0, 0x10), (0xF, 0xF5)])) 0 = 0x11 ∧
    reg (exec (.addVxVy 0xF 1) (start [(0xF, 0x02), (1, 0x03)])) 0xF = 0x03 ∧
    reg (exec (.addVxVy 0xF 0xF) (start [(0xF, 0x80)])) 0xF = 2 := by
  decide

/-- T56, T57. -/
theorem test_subVxVy :
    let r := exec (.subVxVy 0 1) (start [(0, 0x00), (1, 0x01)])
    let q := exec (.subVxVy 1 2) (start [(1, 0x07), (2, 0x07)])
    reg r 0 = 0xFF ∧ reg r 0xF = 0 ∧ reg q 1 = 0 ∧ reg q 0xF = 0 := by
  decide

/-- T58, T61, T62. -/
theorem test_subVxVy_flag_operand :
    reg (exec (.subVxVy 0 0xF) (start [(0, 0x05), (0xF, 0x03)])) 0 = 0x04 ∧
    reg (exec (.subVxVy 0xF 1) (start [(0xF, 0x02), (1, 0x04)])) 0xF = 0xFC ∧
    reg (exec (.subVxVy 0xF 0xF) (start [(0xF, 0x55)])) 0xF = 0 := by
  decide

/-- T64, T65. -/
theorem test_shrVx :
    let r := exec (.shrVx 2 3) (start [(2, 0x03), (3, 0xF0)])
    reg r 2 = 0x01 ∧ reg r 0xF = 1 ∧ reg r 3 = 0xF0 ∧ reg (exec (.shrVx 0xF 0) (start [(0xF, 0xFF)])) 0xF = 0 := by
  decide

/-- T66. -/
theorem test_subnVxVy :
    let r := exec (.subnVxVy 1 0) (start [(1, 0x01), (0, 0xFE)])
    reg r 1 = 0xFD ∧ reg r 0xF = 1 := by
  decide

/-- T69, T71, T73. -/
theorem test_subnVxVy_flag_operand :
    reg (exec (.subnVxVy 0 0xF) (start [(0, 0x05), (0xF, 0x09)])) 0 = 0xFC ∧
    reg (exec (.subnVxVy 0xF 1) (start [(0xF, 0x02), (1, 0x04)])) 0xF = 0x03 ∧
    reg (exec (.subnVxVy 0xF 0xF) (start [(0xF, 0x55)])) 0xF = 0 := by
  decide

/-- T75, T76. -/
theorem test_shlVx :
    let r := exec (.shlVx 2 3) (start [(2, 0xC0), (3, 0x01)])
    reg r 2 = 0x80 ∧ reg r 0xF = 1 ∧ reg r 3 = 0x01 ∧ reg (exec (.shlVx 0xF 0) (start [(0xF, 0xFF)])) 0xF = 2 := by
  decide

/-! ### Address register and memory (95 2.4) -/

/-- T80. -/
theorem test_ldINnn : (after (exec (.ldINnn 0x123) (setI 0xFFFF (start [])))).i = 0x123 := by decide

/-- T82, T83. -/
theorem test_addIVx :
    (after (exec (.addIVx 0) (setI 0x0FFF (start [(0, 0xFF)])))).i = 0x10FE ∧
    (after (exec (.addIVx 0) (setI 0xFFFF (start [(0, 0x02)])))).i = 0x0001 := by
  decide

/-- T84, T85. -/
theorem test_ldFVx :
    (after (exec (.ldFVx 3) (start [(3, 0x0A)]))).i = 0x0032 ∧ (after (exec (.ldFVx 3) (start [(3, 0xFF)]))).i = 0x04FB := by
  decide

/-- T87, T91. -/
theorem test_ldBVx :
    (after (exec (.ldBVx 0) (setI 0x300 (start [(0, 0xFF)])))).mem = [(0x300, 2), (0x301, 5), (0x302, 5)] ∧
    (after (exec (.ldBVx 0) (setI 0xFFD (start [(0, 123)])))).mem = [(0xFFD, 1), (0xFFE, 2), (0xFFF, 3)] := by
  decide

/-- T92. -/
theorem test_ldBVx_out_of_bounds :
    let t := after (exec (.ldBVx 0) (setI 0xFFE (start [(0, 123)])))
    t.faultCode.number = 2 ∧ t.faultInfo = 0x1000 ∧ t.pc = 0x202 ∧ t.mem = [] := by
  decide

/-- T93. -/
theorem test_ldMemIVx :
    let t := after (exec (.ldMemIVx 1) (setI 0x208 (start [(0, 0x12), (1, 0x0A)])))
    t.mem = [(0x208, 0x12), (0x209, 0x0A)] ∧ t.i = 0x208 := by
  decide

/-- T95. -/
theorem test_ldMemIVx_out_of_bounds :
    let t := after (exec (.ldMemIVx 0xF) (setI 0xFF1 (start [])))
    t.faultCode.number = 2 ∧ t.faultInfo = 0x1000 ∧ t.mem = [] := by
  decide

/-- T98. -/
theorem test_ldVxMemI :
    let r := exec (.ldVxMemI 2) (storeBytes 0x300 [2, 3, 4] (setI 0x300 (start [])))
    reg r 0 = 2 ∧ reg r 1 = 3 ∧ reg r 2 = 4 ∧ reg r 3 = 0 ∧ (after r).i = 0x300 := by
  decide

/-- T97, with the default font of R25 in memory. -/
theorem test_ldVxMemI_font :
    let r := exec (.ldVxMemI 4) (storeBytes 0 (Config.defaultFont.take 5) (start []))
    [reg r 0, reg r 1, reg r 2, reg r 3, reg r 4] = [0xF0, 0x90, 0x90, 0x90, 0xF0] := by
  decide

/-- The default font has 80 bytes, and glyph A starts at 0x032 (R25). -/
theorem test_default_font :
    Config.defaultFont.length = 80 ∧ (Config.defaultFont.drop 0x32).take 5 = [0xF0, 0x90, 0xF0, 0x90, 0x90] := by
  decide

/-! ### Random and timers (95 2.5) -/

/-- T110. -/
theorem test_rndVxKk : reg (exec (.rndVxKk 1 0x0F) (start [])) 1 = 0x07 := by decide

/-- T114. -/
theorem test_ldVxDt : reg (exec (.ldVxDt 3) { start [] with dt := 0x2A }) 3 = 0x2A := by decide

/-- T113. -/
theorem test_ldDtVx :
    let t := after (exec (.ldDtVx 0) (start [(0, 0x3C)]))
    t.dt = 0x3C ∧ t.st = 0 := by
  decide

/-- The example of R144. -/
theorem test_ldStVx :
    let t := after (exec (.ldStVx 4) (start [(4, 0x05)]))
    t.st = 5 ∧ soundOn t = true ∧ t.dt = 0 := by
  decide

/-- R185: each timer is decremented on its own condition. -/
theorem test_tick :
    let t := timerTick { start [] with dt := 10 }
    t.dt = 9 ∧ t.st = 0 := by
  decide

/-! ### Display and keypad (95 2.6) -/

/-- T130. -/
theorem test_cls : (after (exec .cls (start []))).out = [.clear] := by decide

/-- T132 and T136: the request, the answer in the flag, the old flag as a coordinate. -/
theorem test_drwVxVyN :
    let t := after (exec (.drwVxVyN 0xF 1 1) (storeBytes 0x300 [0xFF] (setI 0x300 (start [(0xF, 7), (1, 2)]))))
    t.out = [.draw 1 [0xFF] 7 2] ∧ getV t 0xF = 1 ∧ t.i = 0x300 := by
  decide

/-- T135: no request and no flag when the range leaves memory. -/
theorem test_drwVxVyN_out_of_bounds :
    let t := after (exec (.drwVxVyN 0 1 5) (setI 0xFFC (start [])))
    t.faultCode.number = 2 ∧ t.faultInfo = 0x1000 ∧ t.out = [] ∧ getV t 0xF = 0 := by
  decide

/-- T138 (the key up). -/
theorem test_skpVx :
    let t := after (exec (.skpVx 2) (start [(2, 5)]))
    t.pc = 0x202 ∧ t.out = [.keyQuery 5] := by
  decide

theorem test_sknpVx :
    let t := after (exec (.sknpVx 2) (start [(2, 5)]))
    t.pc = 0x204 ∧ t.out = [.keyQuery 5] := by
  decide

/-- T140, the issue. -/
theorem test_ldVxK :
    let t := after (exec (.ldVxK 3) (start []))
    t.mode = .waitKey ∧ t.waitX = 3 ∧ t.pc = 0x202 := by
  decide

/-- T140 and T142, the completion: the byte, `RUNNING`, then the render request. -/
theorem test_ldVxK_answer :
    let t := after (step { soon (.keyEvent 0xEE) .waitKey with waitX := 3, exitReq := true })
    getV t 3 = 0xEE ∧ t.mode = .running ∧ t.out = [.render] ∧ t.renderPending = true := by
  decide

/-! ### Steps (95 2.1 and 2.7) -/

/-- The first step of S7, and T157 up to its render request. -/
theorem test_step :
    let t := after (step { placed 0x6005 with exitReq := true })
    getV t 0 = 5 ∧ t.pc = 0x202 ∧ t.out = [.render] ∧ t.mode = .running ∧ t.renderPending = true := by
  decide

/-- The core with a render request outstanding and one move settled. -/
def rendering (e : Event) : State := { soon e .running with renderPending := true, out := [.render], dt := 5 }

/-- The end of T157 and of T142: the request is accepted, then the exit check. -/
theorem test_render_accepted :
    let t := after (step { rendering .renderAccepted with exitReq := true })
    t.mode = .stopped ∧ t.renderPending = false ∧ (after (step (rendering .renderAccepted))).mode = .running := by
  decide

/-- R181: a tick falls in step 2, and the core still waits for the acceptance, so it can stop with the timer lower than its
last instruction left it. -/
theorem test_tick_during_render :
    let t := after (step { rendering .clock with prescaler := Config.tickDivPred })
    t.dt = 4 ∧ t.mode = .running ∧ t.renderPending = true := by
  have h : after (step { rendering .clock with prescaler := Config.tickDivPred }) =
      timerTick { takeEvent (rendering .clock) with prescaler := 0 } :=
    if_pos (show Config.tickDivPred + 1 = Config.tickDiv from rfl)
  rw [h]
  decide

/-- T5, T158. -/
theorem test_step_illegal :
    let t := after (step (placed 0x0000))
    t.faultCode.number = 1 ∧ t.faultInfo = 0 ∧ t.pc = 0x202 ∧ t.mode = .halted ∧ t.out = [] := by
  decide

/-- T3. -/
theorem test_step_beyond_memory :
    let t := after (step { soon (.core answers) .running with pc := 0xFFF })
    t.faultCode.number = 2 ∧ t.faultInfo = 0xFFF ∧ t.pc = 0xFFF ∧ t.mode = .halted := by
  decide

/-- T154: a second load overlays the first two bytes only. -/
theorem test_load_overlays :
    (hostLoad [0x12, 0x00] (hostLoad [0x60, 0x05, 0x61, 0x03] State.reset)).mem =
      [(0x200, 0x12), (0x201, 0x00), (0x202, 0x61), (0x203, 0x03)] := by
  decide

/-! ### Witnesses: the hypotheses of each statement can be met -/

theorem witness_ResetReturnsTheCoreToIdle :
    nextEvent (soon .reset .running) = .reset ∧
    (soon .reset .halted).mode = .halted ∧ step (soon .reset .halted) = .next (after (step (soon .reset .halted))) ∧
    (after (step (soon .reset .halted))).mode ≠ .halted := ⟨rfl, rfl, rfl, by decide⟩

theorem witness_LoadOverlaysTheProgram :
    let s := soon (.load (List.replicate 3584 0x12)) .idle
    nextEvent s = .load (List.replicate 3584 0x12) ∧ s.mode = .idle ∧ (List.replicate 3584 (0x12 : Byte)).length ≤ 3584 :=
  ⟨rfl, rfl, by rw [List.length_replicate]⟩

theorem witness_LoadTooLongIsACapacityError :
    let s := soon (.load (List.replicate 3585 0x12)) .idle
    nextEvent s = .load (List.replicate 3585 0x12) ∧ s.mode = .idle ∧ 3584 < (List.replicate 3585 (0x12 : Byte)).length :=
  ⟨rfl, rfl, by rw [List.length_replicate]; decide⟩

theorem witness_StartSetsTheCoreRunning : nextEvent (soon .start .idle) = .start ∧ (soon .start .idle).mode = .idle :=
  ⟨rfl, rfl⟩

theorem witness_HostActionsOutOfPlaceAreIgnored :
    ((∃ bytes, nextEvent (soon (.load [0x60]) .running) = .load bytes) ∧ (soon (.load [0x60]) .running).mode ≠ .idle) ∧
    (nextEvent (soon .start .halted) = .start ∧ (soon .start .halted).mode ≠ .idle) ∧
    ((∃ k, nextEvent (soon (.keyEvent 1) .running) = .keyEvent k) ∧ (soon (.keyEvent 1) .running).mode ≠ .waitKey) ∧
    (nextEvent (soon .renderAccepted .running) = .renderAccepted ∧
      (soon .renderAccepted .running).renderPending = false) :=
  ⟨⟨⟨_, rfl⟩, by decide⟩, ⟨rfl, by decide⟩, ⟨⟨_, rfl⟩, by decide⟩, rfl, rfl⟩

theorem witness_ExitRequestIsOnlyALevel : nextEvent (soon (.exitReq true) .running) = .exitReq true := rfl

theorem witness_StoppedAndHaltedAreFrozen :
    ((soon .clock .stopped).mode = .stopped ∧ nextEvent (soon .clock .stopped) ≠ .reset) ∧
    ((soon (.core answers) .halted).mode = .halted ∧ nextEvent (soon (.core answers) .halted) ≠ .reset) := by
  decide

theorem witness_ModeChangesFollowTheTable :
    (step (soon .start .idle) = .next (after (step (soon .start .idle))) ∧
      (after (step (soon .start .idle))).mode ≠ (soon .start .idle).mode) ∧
    (step (placed 0xF30A) = .next (after (step (placed 0xF30A))) ∧ (after (step (placed 0xF30A))).mode = .waitKey) ∧
    (step (placed 0x0000) = .next (after (step (placed 0x0000))) ∧ (after (step (placed 0x0000))).mode = .halted) ∧
    (step { rendering .renderAccepted with exitReq := true } =
        .next (after (step { rendering .renderAccepted with exitReq := true })) ∧
      (after (step { rendering .renderAccepted with exitReq := true })).mode ≠ .running) :=
  ⟨⟨rfl, by decide⟩, ⟨rfl, by decide⟩, ⟨rfl, by decide⟩, ⟨rfl, by decide⟩⟩

theorem witness_FetchBeyondMemoryFaults :
    (CoreRuns answers { soon (.core answers) .running with pc := 0xFFF } ∧ (0xFFF : Word).toNat + 1 > 4095) ∧
    ({ State.reset with pc := 0xFFE } : State).pc.toNat ≤ 0x0FFE := ⟨⟨⟨rfl, rfl, rfl⟩, by decide⟩, by decide⟩

theorem witness_FetchIsBigEndianAndAdvances : ({ State.reset with pc := 0xFFE } : State).pc.toNat + 1 ≤ 4095 := by decide

theorem witness_IllegalWordHaltsTheCore :
    CoreRuns answers (placed 0x01E0) ∧ readWord (placed 0x01E0) (placed 0x01E0).pc.toNat = some 0x01E0 ∧
    decodeWord 0x01E0 = .error (.illegalInstruction 0x01E0) := ⟨⟨rfl, rfl, rfl⟩, by decide, by decide⟩

theorem witness_StepRunsTheDecodedInstruction :
    CoreRuns answers (placed 0x8014) ∧ (placed 0x8014).pc.toNat + 1 ≤ 4095 ∧
    decode [readByte (placed 0x8014) 0x200, readByte (placed 0x8014) 0x201] = .ok (.addVxVy 0 1, []) :=
  ⟨⟨rfl, rfl, rfl⟩, by decide, by decide⟩

theorem witness_CompletedInstructionRendersThenChecksExit :
    CoreRuns answers (placed 0x6005) ∧ readWord (placed 0x6005) (placed 0x6005).pc.toNat = some 0x6005 ∧
    decodeWord 0x6005 = .ok (.ldVxKk 0 5) ∧
    exec (.ldVxKk 0 5) (executeState answers (placed 0x6005)) =
      .next (after (exec (.ldVxKk 0 5) (executeState answers (placed 0x6005)))) ∧
    (after (exec (.ldVxKk 0 5) (executeState answers (placed 0x6005)))).mode = .running :=
  ⟨⟨rfl, rfl, rfl⟩, by decide, by decide, rfl, by decide⟩

theorem witness_CompletedInstructionRendersThenChecksExit_acceptance :
    nextEvent (rendering .renderAccepted) = .renderAccepted ∧ (rendering .renderAccepted).mode = .running ∧
    (rendering .renderAccepted).renderPending = true := ⟨rfl, rfl, rfl⟩

theorem witness_NoRenderAfterAFaultOrDuringAWait :
    (CoreRuns answers (placed 0x00EE) ∧ readWord (placed 0x00EE) (placed 0x00EE).pc.toNat = some 0x00EE ∧
      decodeWord 0x00EE = .ok .ret ∧
      exec .ret (executeState answers (placed 0x00EE)) = .next (after (exec .ret (executeState answers (placed 0x00EE)))) ∧
      (after (exec .ret (executeState answers (placed 0x00EE)))).mode = .halted) ∧
    (CoreRuns answers (placed 0xF30A) ∧ readWord (placed 0xF30A) (placed 0xF30A).pc.toNat = some 0xF30A ∧
      decodeWord 0xF30A = .ok (.ldVxK 3) ∧
      exec (.ldVxK 3) (executeState answers (placed 0xF30A)) =
        .next (after (exec (.ldVxK 3) (executeState answers (placed 0xF30A)))) ∧
      (after (exec (.ldVxK 3) (executeState answers (placed 0xF30A)))).mode = .waitKey) :=
  ⟨⟨⟨rfl, rfl, rfl⟩, by decide, by decide, rfl, by decide⟩, ⟨⟨rfl, rfl, rfl⟩, by decide, by decide, rfl, by decide⟩⟩

theorem witness_CoreDoesNothingOutsideRunning :
    nextEvent (soon (.core answers) .waitKey) = .core answers ∧ (soon (.core answers) .waitKey).mode ≠ .running ∧
    nextEvent (rendering (.core answers)) = .core answers ∧ (rendering (.core answers)).renderPending = true := by
  decide

theorem witness_PlacedWordIsRunByTheNextStep :
    ({ State.reset with pc := 0xFFE } : State).pc.toNat + 1 ≤ 4095 ∧ 0xF065 < 65536 ∧
    decodeTableWord 16 0xF065 = some (.ldVxMemI 0) := by
  decide

theorem witness_EncodeOfDecodeIsTheWord : decodeWord 0x5011 = .ok (.seVxVy 0 1 1) := by decide

theorem witness_RetPopsOrUnderflows :
    ({ start [] with stack := [0x0FFF, 0x0202] } : State).stack = 0x0FFF :: [0x0202] ∧ (start []).stack = [] := by
  decide

theorem witness_CallPushesAndJumps : Config.stackDepth ≠ some (start []).stack.length := by
  simp [Config.stackDepth, start, State.reset]

theorem witness_CallThenReturnRoundTrips : Config.stackDepth ≠ some State.reset.stack.length := by
  simp [Config.stackDepth, State.reset]

/-- The four cases of `8xy4`, `8xy5`, `8xy7`, and the two of the shifts. -/
theorem witness_flag_register_cases :
    ((0 : Reg) ≠ 15 ∧ (1 : Reg) ≠ 15) ∧ ((0 : Reg) ≠ 15 ∧ (15 : Reg) = 15) ∧ ((15 : Reg) = 15 ∧ (14 : Reg) ≠ 15) := by
  decide

theorem witness_FlagRegisterChangesOnlyAsListed :
    (exec (.addVxVy 0 1) (start [(0, 0xFF), (1, 1)]) = .next (after (exec (.addVxVy 0 1) (start [(0, 0xFF), (1, 1)]))) ∧
      reg (exec (.addVxVy 0 1) (start [(0, 0xFF), (1, 1)])) 15 ≠ getV (start [(0, 0xFF), (1, 1)]) 15) ∧
    (exec (.drwVxVyN 0 1 0) (start []) = .next (after (exec (.drwVxVyN 0 1 0) (start []))) ∧
      reg (exec (.drwVxVyN 0 1 0) (start [])) 15 ≠ getV (start []) 15) ∧
    (exec (.ldVxKk 15 1) (start []) = .next (after (exec (.ldVxKk 15 1) (start []))) ∧
      reg (exec (.ldVxKk 15 1) (start [])) 15 ≠ getV (start []) 15) :=
  ⟨⟨rfl, by decide⟩, ⟨rfl, by decide⟩, ⟨rfl, by decide⟩⟩

theorem witness_BcdStoresTheThreeDigits : dataBase (setI 0xFFD (start [])) + 2 ≤ 4095 := by decide

theorem witness_StoreRegistersWritesMemory : dataBase (setI 0xFF0 (start [])) + (15 : Reg).val ≤ 4095 := by decide

theorem witness_LoadRegistersReadsMemory : dataBase (setI 0xFFF (start [])) + (0 : Reg).val ≤ 4095 := by decide

theorem witness_OutOfRangeAccessFaultsFirst :
    dataBase (setI 0xFFE (start [])) + 2 > 4095 ∧ dataBase (setI 0xFF1 (start [])) + (15 : Reg).val > 4095 ∧
    dataBase (setI 0x1000 (start [])) + (0 : Reg).val > 4095 ∧
    (5#4).toNat ≥ 1 ∧ dataBase (setI 0xFFC (start [])) + (5#4).toNat - 1 > 4095 := by
  decide

theorem witness_FetchSeesTheLatestStore :
    let s := setI 0x208 { start [] with pc := 0x208 }
    dataBase s + (1 : Reg).val ≤ 4095 ∧ 0 + 1 ≤ (1 : Reg).val ∧ s.pc.toNat = dataBase s + 0 := by
  decide

theorem witness_StoreThenLoadGivesTheRegistersBack : dataBase (setI 0x300 (start [])) + (15 : Reg).val ≤ 4095 := by decide

theorem witness_AddressRegisterChangesOnlyAsListed :
    (exec (.ldINnn 0x123) (start []) = .next (after (exec (.ldINnn 0x123) (start []))) ∧
      (after (exec (.ldINnn 0x123) (start []))).i ≠ (start []).i) ∧
    (exec (.addIVx 1) (start [(1, 2)]) = .next (after (exec (.addIVx 1) (start [(1, 2)]))) ∧
      (after (exec (.addIVx 1) (start [(1, 2)]))).i ≠ (start [(1, 2)]).i) ∧
    (exec (.ldFVx 1) (start [(1, 2)]) = .next (after (exec (.ldFVx 1) (start [(1, 2)]))) ∧
      (after (exec (.ldFVx 1) (start [(1, 2)]))).i ≠ (start [(1, 2)]).i) :=
  ⟨⟨rfl, by decide⟩, ⟨rfl, by decide⟩, ⟨rfl, by decide⟩⟩

theorem witness_StackAndMemoryChangeOnlyAsListed :
    (exec (.call 0x300) (start []) = .next (after (exec (.call 0x300) (start []))) ∧
      (after (exec (.call 0x300) (start []))).stack ≠ (start []).stack) ∧
    (exec (.ldMemIVx 0) (storeBytes 0x300 [9] (setI 0x300 (start []))) =
        .next (after (exec (.ldMemIVx 0) (storeBytes 0x300 [9] (setI 0x300 (start []))))) ∧
      readByte (after (exec (.ldMemIVx 0) (storeBytes 0x300 [9] (setI 0x300 (start []))))) 0x300 ≠
        readByte (storeBytes 0x300 [9] (setI 0x300 (start []))) 0x300) :=
  ⟨⟨rfl, by decide⟩, ⟨rfl, by decide⟩⟩

theorem witness_WrittenCellsHideTheUnknownMemory :
    let s := storeBytes 0x300 (List.replicate 16 0x7F) (setI 0x300 (start []))
    ∀ k, k < 16 → (s.mem.cell (dataBase s + k)).isSome = true := by
  decide

theorem witness_ClockTicksOnlyWhileEnabled :
    (nextEvent (soon .clock .running) = .clock ∧ nextEvent (soon .clock .waitKey) = .clock ∧
      nextEvent (soon .clock .idle) = .clock) ∧
    ({ soon .clock .running with prescaler := Config.tickDivPred } : State).prescaler + 1 = Config.tickDiv ∧
    ({ soon .clock .running with prescaler := Config.tickDiv } : State).prescaler + 1 ≠ Config.tickDiv :=
  ⟨⟨rfl, rfl, rfl⟩, rfl, Nat.succ_ne_self _⟩

theorem witness_TicksCommuteWithInstructions :
    ∀ x, Instr.ldVxKk 0 5 ≠ .ldVxDt x ∧ Instr.ldVxKk 0 5 ≠ .ldDtVx x ∧ Instr.ldVxKk 0 5 ≠ .ldStVx x := by
  decide

theorem witness_TimersRiseOnlyByTheirInstructions :
    (step (delayed 0xF015) = .next (after (step (delayed 0xF015))) ∧
      (after (step (delayed 0xF015))).dt.toNat > (delayed 0xF015).dt.toNat) ∧
    (step (delayed 0xF018) = .next (after (step (delayed 0xF018))) ∧
      (after (step (delayed 0xF018))).st.toNat > (delayed 0xF018).st.toNat) :=
  ⟨⟨rfl, by decide⟩, ⟨rfl, by decide⟩⟩

theorem witness_DrawSendsRowsAndTakesTheCollisionBit :
    (0#4).toNat = 0 ∧ dataBase (setI 0xFFB (start [])) + (5#4).toNat - 1 ≤ 4095 := by
  decide

theorem witness_KeyAnswerCompletesTheWait :
    nextEvent (soon (.keyEvent 0xB) .waitKey) = .keyEvent 0xB ∧ (soon (.keyEvent 0xB) .waitKey).mode = .waitKey :=
  ⟨rfl, rfl⟩

/-- The core running after reset, a clock period next: a state that meets the invariant. -/
theorem running_meets_the_invariant : StateInv (soon .clock .running) where
  memCanonical := by decide
  pcBound := by decide
  stackValues := by simp [soon, State.reset]
  stackBound := fun _ _ => Nat.zero_le _
  prescalerBound := tickDiv_pos
  faultRecorded := by decide
  infoClear := by decide
  infoBound := by decide
  waitOutstanding := by decide
  renderOutstanding := by decide
  idleFresh := fun h => absurd h (by decide)

theorem witness_EveryStepKeepsTheInvariant :
    StateInv (soon .clock .running) ∧ step (soon .clock .running) = .next (after (step (soon .clock .running))) :=
  ⟨running_meets_the_invariant, rfl⟩

end Sys2Proof.Tests
end

section
/-! SUPPORT. Frames: how they compose, the frame of each named operation, and the table of what each instruction may
change. -/

namespace Sys2Proof.Machine

/-! ### Composing frames -/

theorem Part.same.trans {s t u : State} {p : Part} (hst : p.same s t) (htu : p.same t u) : p.same s u := by
  cases p <;> exact Eq.trans htu hst

theorem Frame.mono {c d : Part → Prop} {s t : State} (h : Frame c s t) (hcd : ∀ p, c p → d p) : Frame d s t :=
  fun p hp => h p fun hc => hp (hcd p hc)

theorem Frame.subset {l l' : List Part} {s t : State} (h : Frame (among l) s t) (hl : l ⊆ l') : Frame (among l') s t :=
  h.mono fun _ hp => hl hp

theorem Frame.trans {c : Part → Prop} {s t u : State} (hst : Frame c s t) (htu : Frame c t u) : Frame c s u :=
  fun p hp => (hst p hp).trans (htu p hp)

/-- A part that did change is one the frame names. -/
theorem Frame.changed {c : Part → Prop} {s t : State} {p : Part} (h : Frame c s t) (hp : ¬ p.same s t) : c p :=
  not_not.1 fun hc => hp (h p hc)

/-! ### The operations on the state -/

section
variable (s : State)

theorem frame_refl (c : Part → Prop) : Frame c s s := fun p _ => by cases p <;> rfl

theorem frame_setV (x : Reg) (b : Byte) : Frame (among [.v x]) s (setV x b s) := fun p hp => by
  cases p with
  | v y =>
    have hy : y ≠ x := by simpa [among] using hp
    exact (getV_setV s x y b).trans (if_neg hy)
  | _ => rfl

theorem frame_setI (w : Word) : Frame (among [.i]) s (setI w s) := fun p hp => by
  cases p with
  | i => simp [among] at hp
  | _ => rfl

theorem frame_setPc (w : Word) : Frame (among [.pc]) s (setPc w s) := fun p hp => by
  cases p with
  | pc => simp [among] at hp
  | _ => rfl

theorem frame_stack (l : List Word) : Frame (among [.stack]) s { s with stack := l } := fun p hp => by
  cases p with
  | stack => simp [among] at hp
  | _ => rfl

theorem frame_emit (r : Request) : Frame (among [.out]) s (emit r s) := fun p hp => by
  cases p with
  | out => simp [among] at hp
  | _ => rfl

theorem frame_timerWriteDt (b : Byte) : Frame (among [.dt]) s (timerWriteDt b s) := fun p hp => by
  cases p with
  | dt => simp [among] at hp
  | _ => rfl

theorem frame_timerWriteSt (b : Byte) : Frame (among [.st]) s (timerWriteSt b s) := fun p hp => by
  cases p with
  | st => simp [among] at hp
  | _ => rfl

theorem frame_storeBytes (a : Nat) (bs : List Byte) : Frame (cellsFrom a bs.length) s (storeBytes a bs s) := fun p hp => by
  cases p with
  | mem c =>
    refine (readByte_storeBytes s a bs c).trans (dif_neg fun hc => hp ⟨c - a, by omega, ?_⟩)
    rw [Nat.add_sub_cancel' hc.1]
  | _ => rfl

/-- Loading bytes into the registers from `V[0]` up. -/
theorem frame_loadRegs (x : Reg) (bs : List Byte) (hbs : bs.length = x.val + 1) :
    Frame (regsTo x) s (setRegs (loadRegs bs 0 s.v) s) := fun p hp => by
  cases p with
  | v y =>
    have hy : ¬ y ≤ x := fun hyx => hp ⟨y, hyx, rfl⟩
    exact (loadRegs_getElem bs 0 s.v y.val y.isLt).trans (dif_neg fun h => hy (Fin.le_def.2 (by omega)))
  | _ => rfl

/-- The parts that fault entry writes (R176). -/
def faultParts : List Part := [.mode, .faultCode, .faultInfo]

theorem frame_raiseFault (code : FaultCode) (info : Info) : Frame (among faultParts) s (raiseFault code info s) :=
  fun p hp => by
    cases p with
    | mode | faultCode | faultInfo => simp [among, faultParts] at hp
    | _ => rfl

/-- Fault entry as the statements describe it. -/
theorem faultTaken_raiseFault (code : FaultCode) (info : Info) :
    FaultTaken code info.toNat s (raiseFault code info s) :=
  ⟨rfl, rfl, rfl, frame_raiseFault s code info⟩

/-- The state in which `Fx0A` waits (R157). -/
theorem frame_keyWait (x : Reg) :
    Frame (among [.out, .waitX, .mode]) s { emit .keyWait s with waitX := x, mode := .waitKey } := fun p hp => by
  cases p with
  | out | waitX | mode => simp [among] at hp
  | _ => rfl

/-! ### The shared operations of the instructions -/

theorem frame_skipIf (b : Bool) : Frame (among [.pc]) s (skipIf b s) := by
  obtain ⟨-, h⟩ | ⟨-, h⟩ := skipIf_cases b s
  · exact h ▸ frame_setPc s _
  · exact h.symm ▸ frame_refl s _

theorem frame_flagThenResult (flag : State → Byte) (x : Reg) (result : State → Byte) :
    Frame (among [.v x, .v flagReg]) s (flagThenResult flag x result s) := by
  rw [flagThenResult_eq]
  exact ((frame_setV s flagReg _).subset (by simp)).trans ((frame_setV _ x _).subset (by simp))

theorem frame_emit_skipIf (r : Request) (b : Bool) : Frame (among [.out, .pc]) s (skipIf b (emit r s)) :=
  ((frame_emit s r).subset (by simp)).trans ((frame_skipIf _ b).subset (by simp))

/-- A checked access changes what fault entry writes, or what its effect changes when it is in bounds. -/
theorem frame_checkedAccess {c : Part → Prop} (len : Nat) (f : State → State)
    (hf : accessInBounds (dataBase s) len = true → Frame c s (f s)) :
    Frame (fun p => c p ∨ among faultParts p) s (checkedAccess len s f) := by
  obtain ⟨hin, h⟩ | ⟨-, h⟩ := checkedAccess_cases len s f
  · exact h ▸ (hf hin).mono fun _ => .inl
  · exact h ▸ (frame_raiseFault s _ _).mono fun _ => .inr

theorem frame_push_setPc (w target : Word) :
    Frame (among (.pc :: .stack :: faultParts)) s (push w s fun s => setPc target s) := by
  obtain ⟨-, h⟩ | ⟨-, h⟩ := push_cases w s fun s => setPc target s
  · exact h ▸ (frame_raiseFault s _ _).subset (by simp)
  · exact h ▸ ((frame_stack s _).subset (by simp)).trans ((frame_setPc _ target).subset (by simp))

theorem frame_pop_setPc : Frame (among (.pc :: .stack :: faultParts)) s (pop s fun w s => setPc w s) := by
  obtain ⟨-, h⟩ | ⟨w, rest, -, h⟩ := pop_cases s fun w s => setPc w s
  · exact h ▸ (frame_raiseFault s _ _).subset (by simp)
  · exact h ▸ ((frame_stack s _).subset (by simp)).trans ((frame_setPc _ w).subset (by simp))

end

/-! ### What an instruction may change -/

/-- The memory cells of a data access of `len` bytes from `I`, when the access is in bounds. -/
def dataCells (s : State) (len : Nat) (p : Part) : Prop := dataBase s + len ≤ 4096 ∧ cellsFrom (dataBase s) len p

/-- The parts of the state that an instruction can change, a fault it may raise included. -/
def mayChange (i : Instr) (s : State) : Part → Prop :=
  match i with
  | .cls => among [.out]
  | .ret | .call _ => among (.pc :: .stack :: faultParts)
  | .jp _ | .jpV0Nnn _ | .seVxKk _ _ | .sneVxKk _ _ | .seVxVy _ _ _ | .sneVxVy _ _ _ => among [.pc]
  | .ldVxKk x _ | .addVxKk x _ | .ldVxVy x _ | .orVxVy x _ | .andVxVy x _ | .xorVxVy x _ => among [.v x]
  | .rndVxKk x _ | .ldVxDt x => among [.v x]
  | .addVxVy x _ | .subVxVy x _ | .shrVx x _ | .subnVxVy x _ | .shlVx x _ => among [.v x, .v flagReg]
  | .ldINnn _ | .addIVx _ | .ldFVx _ => among [.i]
  | .drwVxVyN _ _ _ => fun p => among [.out, .v flagReg] p ∨ among faultParts p
  | .skpVx _ | .sknpVx _ => among [.out, .pc]
  | .ldVxK _ => among [.out, .waitX, .mode]
  | .ldDtVx _ => among [.dt]
  | .ldStVx _ => among [.st]
  | .ldBVx _ => fun p => dataCells s 3 p ∨ among faultParts p
  | .ldMemIVx x => fun p => dataCells s (x.val + 1) p ∨ among faultParts p
  | .ldVxMemI x => fun p => regsTo x p ∨ among faultParts p

/-- A store into the cells of a data access that is in bounds. -/
theorem frame_storeBytes_dataBase (s : State) (bs : List Byte) (len : Nat) (hbs : bs.length = len) (hlen : len ≠ 0)
    (hin : accessInBounds (dataBase s) len = true) : Frame (dataCells s len) s (storeBytes (dataBase s) bs s) := by
  have hfit := ((accessInBounds_iff _ _).1 hin).resolve_left hlen
  exact (frame_storeBytes s _ bs).mono fun p hp => ⟨hfit, hbs ▸ hp⟩

/-- Every instruction answers a next state and changes nothing beyond its row of `mayChange`. -/
theorem exec_next_frame (i : Instr) (s : State) : ∃ t, exec i s = .next t ∧ Frame (mayChange i s) s t :=
  match i with
  | .cls => ⟨_, rfl, frame_emit s _⟩
  | .ret => ⟨_, rfl, frame_pop_setPc s⟩
  | .jp _ => ⟨_, rfl, frame_setPc s _⟩
  | .call _ => ⟨_, rfl, frame_push_setPc s _ _⟩
  | .seVxKk _ _ => ⟨_, rfl, frame_skipIf s _⟩
  | .sneVxKk _ _ => ⟨_, rfl, frame_skipIf s _⟩
  | .seVxVy _ _ _ => ⟨_, rfl, frame_skipIf s _⟩
  | .ldVxKk x _ => ⟨_, rfl, frame_setV s x _⟩
  | .addVxKk x _ => ⟨_, rfl, frame_setV s x _⟩
  | .ldVxVy x _ => ⟨_, rfl, frame_setV s x _⟩
  | .orVxVy x _ => ⟨_, rfl, frame_setV s x _⟩
  | .andVxVy x _ => ⟨_, rfl, frame_setV s x _⟩
  | .xorVxVy x _ => ⟨_, rfl, frame_setV s x _⟩
  | .addVxVy x _ => ⟨_, rfl, frame_flagThenResult s _ x _⟩
  | .subVxVy x _ => ⟨_, rfl, frame_flagThenResult s _ x _⟩
  | .shrVx x _ => ⟨_, rfl, frame_flagThenResult s _ x _⟩
  | .subnVxVy x _ => ⟨_, rfl, frame_flagThenResult s _ x _⟩
  | .shlVx x _ => ⟨_, rfl, frame_flagThenResult s _ x _⟩
  | .sneVxVy _ _ _ => ⟨_, rfl, frame_skipIf s _⟩
  | .ldINnn _ => ⟨_, rfl, frame_setI s _⟩
  | .jpV0Nnn _ => ⟨_, rfl, frame_setPc s _⟩
  | .rndVxKk x _ => ⟨_, rfl, frame_setV s x _⟩
  | .drwVxVyN _ _ _ => ⟨_, rfl, frame_checkedAccess s _ _ fun _ =>
      ((frame_emit s _).subset (by simp)).trans ((frame_setV _ flagReg _).subset (by simp))⟩
  | .skpVx _ => ⟨_, rfl, frame_emit_skipIf s _ _⟩
  | .sknpVx _ => ⟨_, rfl, frame_emit_skipIf s _ _⟩
  | .ldVxDt x => ⟨_, rfl, frame_setV s x _⟩
  | .ldVxK x => ⟨_, rfl, frame_keyWait s x⟩
  | .ldDtVx _ => ⟨_, rfl, frame_timerWriteDt s _⟩
  | .ldStVx _ => ⟨_, rfl, frame_timerWriteSt s _⟩
  | .addIVx _ => ⟨_, rfl, frame_setI s _⟩
  | .ldFVx _ => ⟨_, rfl, frame_setI s _⟩
  | .ldBVx _ => ⟨_, rfl, frame_checkedAccess s 3 _ <| frame_storeBytes_dataBase s _ _ rfl (by decide)⟩
  | .ldMemIVx x => ⟨_, rfl, frame_checkedAccess s (x.val + 1) _ <|
      frame_storeBytes_dataBase s _ _ (regsUpTo_length s x) (Nat.succ_ne_zero _)⟩
  | .ldVxMemI x => ⟨_, rfl, frame_checkedAccess s (x.val + 1) _ fun _ => frame_loadRegs s x _ (readBytes_length s _ _)⟩

theorem exec_frame {i : Instr} {s t : State} (h : exec i s = .next t) : Frame (mayChange i s) s t := by
  obtain ⟨u, hu, hf⟩ := exec_next_frame i s
  obtain rfl : u = t := Host.Outcome.next.inj (hu.symm.trans h)
  exact hf

end Sys2Proof.Machine
end

section
/-! SUPPORT. The statements on what instructions leave alone, each read off the table `mayChange`. -/

namespace Sys2Proof.Machine

/-- The rows of `mayChange` that name memory are those of `Fx33` and `Fx55`. -/
theorem mayChange_mem {i : Instr} {s : State} {a : Nat} (h : mayChange i s (.mem a)) :
    ∃ x len, (i = .ldBVx x ∨ i = .ldMemIVx x) ∧ len ≤ 16 ∧ dataCells s len (.mem a) := by
  cases i with
  | ldBVx x => exact ⟨x, 3, .inl rfl, by decide, h.resolve_right (by simp [among, faultParts])⟩
  | ldMemIVx x => exact ⟨x, x.val + 1, .inr rfl, x.isLt, h.resolve_right (by simp [among, faultParts])⟩
  | _ => simp [mayChange, among, faultParts, regsTo] at h

theorem dataCells_mem_iff {s : State} {len a : Nat} :
    dataCells s len (.mem a) ↔ dataBase s + len ≤ 4096 ∧ dataBase s ≤ a ∧ a < dataBase s + len := by
  refine and_congr_right fun _ => ⟨?_, fun h => ⟨a - dataBase s, by omega, by rw [Nat.add_sub_cancel' h.1]⟩⟩
  rintro ⟨k, hk, hak⟩
  obtain rfl := Part.mem.inj hak
  omega

/-- Settles O37: `V[0xF]` stands only in the rows of the flag writers, of `Dxyn` and of the instructions whose destination
can be `0xF`. -/
theorem flagRegisterChangesOnlyAsListed : Obligations.FlagRegisterChangesOnlyAsListed := by
  intro i s t h hne
  have hrow : mayChange i s (.v 15) := (exec_frame h).changed hne
  cases i with
  | addVxVy x y | subVxVy x y | subnVxVy x y | shrVx x y | shlVx x y => exact .inl ⟨x, y, by simp⟩
  | drwVxVyN x y n => exact .inr (.inl ⟨x, y, n, rfl⟩)
  | ldVxKk x kk | addVxKk x kk | rndVxKk x kk =>
    obtain rfl : 15 = x := by simpa [mayChange, among] using hrow
    exact .inr (.inr ⟨0, kk, by simp⟩)
  | ldVxVy x y | orVxVy x y | andVxVy x y | xorVxVy x y =>
    obtain rfl : 15 = x := by simpa [mayChange, among] using hrow
    exact .inr (.inr ⟨y, 0, by simp⟩)
  | ldVxDt x =>
    obtain rfl : 15 = x := by simpa [mayChange, among] using hrow
    exact .inr (.inr ⟨0, 0, by simp⟩)
  | ldVxMemI x =>
    have hle : 15 ≤ x := by simpa [mayChange, among, faultParts, regsTo] using hrow
    obtain rfl : x = 15 := Fin.le_antisymm (Fin.le_last x) hle
    exact .inr (.inr ⟨0, 0, by simp⟩)
  | _ => simp [mayChange, among, faultParts, dataCells, cellsFrom] at hrow

/-- Settles O45: `I` stands in three rows only. -/
theorem addressRegisterChangesOnlyAsListed : Obligations.AddressRegisterChangesOnlyAsListed := by
  intro i s t h hne
  have hrow : mayChange i s .i := (exec_frame h).changed hne
  cases i with
  | ldINnn nnn => exact .inl ⟨nnn, rfl⟩
  | addIVx x => exact .inr (.inl ⟨x, rfl⟩)
  | ldFVx x => exact .inr (.inr ⟨x, rfl⟩)
  | _ => simp [mayChange, among, faultParts, dataCells, cellsFrom, regsTo] at hrow

/-- Settles O46: the stack stands in the rows of `00EE` and `2nnn` only, memory in those of `Fx33` and `Fx55`. -/
theorem stackAndMemoryChangeOnlyAsListed : Obligations.StackAndMemoryChangeOnlyAsListed := by
  intro i s t h
  refine ⟨fun hne => ?_, fun a hne => ?_⟩
  · have hrow : mayChange i s .stack := (exec_frame h).changed hne
    cases i with
    | ret => exact .inl rfl
    | call nnn => exact .inr ⟨nnn, rfl⟩
    | _ => simp [mayChange, among, faultParts, dataCells, cellsFrom, regsTo] at hrow
  · obtain ⟨x, len, hi, hlen, hcell⟩ := mayChange_mem ((exec_frame h).changed (p := .mem a) hne)
    obtain ⟨hfit, hle, hlt⟩ := dataCells_mem_iff.1 hcell
    exact ⟨⟨x, hi⟩, hle, by omega, by omega⟩

/-- Settles O26: a full stack has exactly the depth `STACK_DEPTH`, and fault entry records the value to be pushed. -/
theorem callOverflowsExactlyAtTheBound : Obligations.CallOverflowsExactlyAtTheBound := by
  intro nnn s
  refine ⟨_, rfl, ?_⟩
  obtain ⟨hfull, h⟩ | ⟨hfull, h⟩ := push_cases s.pc s fun s => setPc (addrOperand nnn) s
  · rw [if_pos ((stackFull_iff _).1 hfull), h]
    have hinfo : (s.pc.setWidth 17).toNat = s.pc.toNat := BitVec.toNat_setWidth_of_le (by decide)
    exact ⟨hinfo ▸ faultTaken_raiseFault s _ _, rfl⟩
  · rw [if_neg fun hd => by simp [(stackFull_iff _).2 hd] at hfull, h]
    exact ⟨rfl, rfl, rfl, rfl⟩

end Sys2Proof.Machine
end

section
/-! SUPPORT. The invariant `StateInv`: reset establishes it, and every operation, every instruction and every move keeps
it. -/

namespace Sys2Proof.Machine

/-! ### Reset -/

theorem getV_reset (x : Reg) : getV State.reset x = 0 := by simp [getV, State.reset]

/-- Memory after reset lists no cell, so every read gives what reset leaves there. -/
theorem readByte_reset (a : Nat) : readByte State.reset a = unlisted State.reset.epoch a := rfl

theorem unlisted_of_lt {epoch a : Nat} (h : a < 80) : unlisted epoch a = Config.font a := if_pos h

theorem unlisted_of_le {epoch a : Nat} (h : 80 ≤ a) : unlisted epoch a = Config.memInit epoch a := if_neg (by
  unfold Config.fontLen
  omega)

theorem fresh_reset : Fresh State.reset := ⟨getV_reset, rfl, rfl, rfl, rfl, rfl, rfl⟩

/-- Settles O1. -/
theorem resetStateHoldsTheSpecValues : Obligations.ResetStateHoldsTheSpecValues :=
  ⟨getV_reset, rfl, rfl, rfl, rfl, rfl, rfl, rfl, rfl,
    fun a ha => (readByte_reset a).trans (unlisted_of_lt ha),
    fun a ha _ => (readByte_reset a).trans (unlisted_of_le ha)⟩

/-- Settles O59: the mode is `IDLE`, where no fault, no wait and no request is outstanding. -/
theorem resetMeetsTheInvariant : Obligations.ResetMeetsTheInvariant where
  memCanonical := reset_memory_wf
  pcBound := by decide
  stackValues := nofun
  stackBound := fun _ _ => Nat.zero_le _
  prescalerBound := tickDiv_pos
  faultRecorded := by decide
  infoClear := fun _ => rfl
  infoBound := Nat.zero_le _
  waitOutstanding := nofun
  renderOutstanding := nofun
  idleFresh := fun _ => fresh_reset

/-! ### What the invariant says mode by mode -/

section
variable {s : State} (h : StateInv s)
include h

theorem StateInv.faultCode_eq (hm : s.mode ≠ .halted) : s.faultCode = .noFault :=
  not_not.1 fun hf => hm (h.faultRecorded.2 hf)

theorem StateInv.renderPending_eq (hm : s.mode ≠ .running) : s.renderPending = false :=
  Bool.eq_false_iff.2 fun hp => hm (h.renderOutstanding hp).1

/-! ### Operations that keep the invariant in every mode -/

/-- The invariant does not speak of what stands outside the core, nor of the reset count. -/
theorem StateInv.outside (exitReq : Bool) (answers : Answers) (epoch : Nat) (inbox : List Event) (now : Nat) :
    StateInv { s with exitReq := exitReq, answers := answers, epoch := epoch, inbox := inbox, now := now } :=
  { h with }

theorem StateInv.after_storeBytes {a : Nat} {bs : List Byte} (hfit : a + bs.length ≤ Config.memSize) :
    StateInv (storeBytes a bs s) :=
  { h with memCanonical := writeAll_wf h.memCanonical hfit }

theorem StateInv.after_raiseFault {code : FaultCode} {info : Info} (hp : s.renderPending = false) (hc : code ≠ .noFault)
    (hi : info.toNat ≤ 65550) : StateInv (raiseFault code info s) :=
  { h with
    faultRecorded := iff_of_true rfl hc
    infoClear := fun hn => absurd hn hc
    infoBound := hi
    waitOutstanding := nofun
    renderOutstanding := fun hr => by simp [hp] at hr
    idleFresh := nofun }

theorem StateInv.after_requestRender : StateInv (requestRender s) := by
  obtain ⟨hm, hr⟩ | ⟨-, hr⟩ := requestRender_cases s
  · rw [hr]
    exact { h with
      waitOutstanding := fun hw => by simp [hm] at hw
      renderOutstanding := fun _ => ⟨hm, rfl⟩
      idleFresh := fun hi => by simp [hm] at hi }
  · rwa [hr]

/-- A move into `RUNNING` from a mode that is neither `RUNNING` nor `HALTED`. -/
theorem StateInv.enter_running (hr : s.mode ≠ .running) (hh : s.mode ≠ .halted) (v : Vector Byte 16) {p : Nat}
    (hp : p < Config.tickDiv) : StateInv { s with v := v, mode := .running, prescaler := p } :=
  { h with
    prescalerBound := hp
    faultRecorded := iff_of_false nofun (by simp [h.faultCode_eq hh])
    waitOutstanding := nofun
    renderOutstanding := fun hpending => by simp [h.renderPending_eq hr] at hpending
    idleFresh := nofun }

/-! ### The moves of the timer engine and of the environment -/

theorem StateInv.after_takeEvent : StateInv (takeEvent s) := h.outside _ _ _ _ _

theorem StateInv.after_driveExitReq (level : Bool) : StateInv (driveExitReq level s) := h.outside _ _ _ _ _

theorem StateInv.after_hostLoad (bytes : List Byte) : StateInv (hostLoad bytes s) := by
  unfold hostLoad
  split
  next hm =>
    split
    next => exact h.after_raiseFault (h.renderPending_eq (by simp [hm])) (by decide) (by decide)
    next hfit => exact h.after_storeBytes (by omega)
  next => exact h

theorem StateInv.after_hostStart : StateInv (hostStart s) := by
  unfold hostStart
  split
  next hm =>
    exact h.enter_running (by simp [hm]) (by simp [hm]) s.v (Nat.mod_lt _ tickDiv_pos)
  next => exact h

/-- The timer engine runs outside `IDLE` only. -/
theorem StateInv.after_clockPeriod : StateInv (clockPeriod s) := by
  have not_idle : timerRun s = true → s.mode ≠ .idle := fun hrun hi => by simp [timerRun, hi] at hrun
  obtain ⟨-, hc⟩ | ⟨hrun, -, hc⟩ | ⟨hrun, hne, hc⟩ := clockPeriod_cases s <;> rw [hc]
  · exact h
  · exact { h with
      prescalerBound := tickDiv_pos
      idleFresh := fun hi => absurd hi (not_idle hrun) }
  · exact { h with
      prescalerBound := Nat.lt_of_le_of_ne h.prescalerBound hne
      idleFresh := fun hi => absurd hi (not_idle hrun) }

theorem StateInv.after_acceptRender : StateInv (acceptRender s) := by
  obtain ⟨hm, -, ha⟩ | ⟨-, ha⟩ := acceptRender_cases s
  · have hf := h.faultCode_eq (by simp [hm])
    rw [ha]
    exact { h with
      faultRecorded := iff_of_false (by cases s.exitReq <;> simp) (by simp [hf])
      waitOutstanding := fun hw => by cases he : s.exitReq <;> simp [he] at hw
      renderOutstanding := nofun
      idleFresh := fun hi => by cases he : s.exitReq <;> simp [he] at hi }
  · rwa [ha]

/-- The key answer: the wait ends in `RUNNING`, where the render request follows. -/
theorem StateInv.after_answerKey (k : Byte) : StateInv (answerKey k s) := by
  unfold answerKey
  split
  next hm =>
    exact (h.enter_running (by simp [hm]) (by simp [hm]) _ h.prescalerBound).after_requestRender
  next => exact h

end

/-! ### The instructions -/

/-- What holds while an instruction executes: the invariant, in `RUNNING` with no render request outstanding, and `PC` past
a fetched word. -/
structure Executing (s : State) : Prop where
  inv : StateInv s
  running : s.mode = .running
  noRender : s.renderPending = false
  pcFetched : s.pc.toNat ≤ 0x1000

/-- The parts that an executing instruction may change freely: registers, `I`, timers, memory, the record of requests. -/
def dataPart : Part → Prop
  | .v _ | .i | .dt | .st | .mem _ | .out => True
  | .pc | .stack | .mode | .faultCode | .faultInfo | .waitX | .prescaler | .renderPending => False
  | .exitReq | .answers | .epoch | .inbox | .now => False

section
variable {s : State} (h : Executing s)
include h

/-- A change of data parts, with memory left canonical. -/
theorem Executing.of_frame {t : State} (hf : Frame dataPart s t) (hmem : Memory.wf t.mem) : Executing t := by
  have hpc : t.pc = s.pc := hf .pc id
  have hstack : t.stack = s.stack := hf .stack id
  have hmode : t.mode = .running := Eq.trans (hf .mode id) h.running
  have hcode : t.faultCode = s.faultCode := hf .faultCode id
  have hinfo : t.faultInfo = s.faultInfo := hf .faultInfo id
  have hpre : t.prescaler = s.prescaler := hf .prescaler id
  have hrender : t.renderPending = false := Eq.trans (hf .renderPending id) h.noRender
  have hno : s.faultCode = .noFault := h.inv.faultCode_eq (by simp [h.running])
  refine ⟨?_, hmode, hrender, hpc ▸ h.pcFetched⟩
  exact {
    memCanonical := hmem
    pcBound := hpc ▸ h.inv.pcBound
    stackValues := hstack ▸ h.inv.stackValues
    stackBound := hstack ▸ h.inv.stackBound
    prescalerBound := hpre ▸ h.inv.prescalerBound
    faultRecorded := iff_of_false (by simp [hmode]) (by simp [hcode, hno])
    infoClear := fun _ => hinfo.trans (h.inv.infoClear hno)
    infoBound := hinfo ▸ h.inv.infoBound
    waitOutstanding := fun hw => by simp [hmode] at hw
    renderOutstanding := fun hr => by simp [hrender] at hr
    idleFresh := fun hi => by simp [hmode] at hi }

theorem Executing.after_setV (x : Reg) (b : Byte) : Executing (setV x b s) :=
  h.of_frame ((frame_setV s x b).mono (by simp [among, dataPart])) h.inv.memCanonical

theorem Executing.after_setI (w : Word) : Executing (setI w s) :=
  h.of_frame ((frame_setI s w).mono (by simp [among, dataPart])) h.inv.memCanonical

theorem Executing.after_emit (r : Request) : Executing (emit r s) :=
  h.of_frame ((frame_emit s r).mono (by simp [among, dataPart])) h.inv.memCanonical

theorem Executing.after_timerWriteDt (b : Byte) : Executing (timerWriteDt b s) :=
  h.of_frame ((frame_timerWriteDt s b).mono (by simp [among, dataPart])) h.inv.memCanonical

theorem Executing.after_timerWriteSt (b : Byte) : Executing (timerWriteSt b s) :=
  h.of_frame ((frame_timerWriteSt s b).mono (by simp [among, dataPart])) h.inv.memCanonical

theorem Executing.after_loadRegs (x : Reg) (bs : List Byte) (hbs : bs.length = x.val + 1) :
    Executing (setRegs (loadRegs bs 0 s.v) s) :=
  h.of_frame ((frame_loadRegs s x bs hbs).mono (by rintro _ ⟨k, -, rfl⟩; trivial)) h.inv.memCanonical

theorem Executing.after_flagThenResult (flag : State → Byte) (x : Reg) (result : State → Byte) :
    Executing (flagThenResult flag x result s) :=
  (h.after_setV flagReg _).after_setV x _

/-- A jump: the invariant holds of every target up to `0x10FE`. -/
theorem Executing.after_setPc {w : Word} (hw : w.toNat ≤ 0x10FE) : StateInv (setPc w s) :=
  { h.inv with
    pcBound := hw
    idleFresh := fun hi => by simp [h.running] at hi }

theorem Executing.after_skipIf (b : Bool) : StateInv (skipIf b s) := by
  obtain ⟨-, hs⟩ | ⟨-, hs⟩ := skipIf_cases b s
  · have hpc := h.pcFetched
    exact hs ▸ h.after_setPc (by bv_omega)
  · exact hs.symm ▸ h.inv

theorem Executing.after_raiseFault {code : FaultCode} {info : Info} (hc : code ≠ .noFault) (hi : info.toNat ≤ 65550) :
    StateInv (raiseFault code info s) :=
  h.inv.after_raiseFault h.noRender hc hi

/-- A data access of at most 16 bytes: `I + len - 1` is at most `65535 + 15`, the bound of the info word (R27). -/
theorem Executing.after_checkedAccess {len : Nat} {f : State → State} (hlen : len ≤ 16)
    (hf : accessInBounds (dataBase s) len = true → StateInv (f s)) : StateInv (checkedAccess len s f) := by
  obtain ⟨hin, hc⟩ | ⟨-, hc⟩ := checkedAccess_cases len s f <;> rw [hc]
  · exact hf hin
  · have hbase : dataBase s < 65536 := s.i.isLt
    refine h.after_raiseFault (by decide) ?_
    rw [BitVec.toNat_ofNat]
    omega

/-- A store over the cells of a data access that is in bounds. -/
theorem Executing.after_checkedStore {len : Nat} {bs : State → List Byte} (hlen : len ≤ 16) (hpos : len ≠ 0)
    (hbs : (bs s).length = len) : StateInv (checkedAccess len s fun s => storeBytes (dataBase s) (bs s) s) :=
  h.after_checkedAccess hlen fun hin =>
    h.inv.after_storeBytes (hbs ▸ ((accessInBounds_iff _ _).1 hin).resolve_left hpos)

/-- A call pushes the address after a fetched word, which is at most `0x1000`, and only below the bound. -/
theorem Executing.after_push_setPc {target : Word} (ht : target.toNat ≤ 0x10FE) :
    StateInv (push s.pc s fun s => setPc target s) := by
  have hpc := h.pcFetched
  obtain ⟨-, hc⟩ | ⟨hroom, hc⟩ := push_cases s.pc s fun s => setPc target s <;> rw [hc]
  · refine h.after_raiseFault (by decide) ?_
    rw [BitVec.toNat_setWidth_of_le (by decide)]
    omega
  · exact { h.inv with
      pcBound := ht
      stackValues := List.forall_mem_cons.2 ⟨hpc, h.inv.stackValues⟩
      stackBound := fun d hd => by
        have hle := h.inv.stackBound d hd
        have hne : s.stack.length ≠ d := fun he => by simp [(stackFull_iff _).2 (he ▸ hd)] at hroom
        exact Nat.lt_of_le_of_ne hle hne
      idleFresh := fun hi => by simp [h.running] at hi }

/-- A return goes to a value of the stack, which is at most `0x1000`. -/
theorem Executing.after_pop_setPc : StateInv (pop s fun w s => setPc w s) := by
  obtain ⟨-, hc⟩ | ⟨w, rest, hstack, hc⟩ := pop_cases s fun w s => setPc w s <;> rw [hc]
  · exact h.after_raiseFault (by decide) (by decide)
  · have hvalues := List.forall_mem_cons.1 (hstack ▸ h.inv.stackValues)
    have hbound := h.inv.stackBound
    rw [hstack] at hbound
    exact { h.inv with
      pcBound := hvalues.1.trans (by decide)
      stackValues := hvalues.2
      stackBound := fun d hd => (Nat.le_succ _).trans (hbound d hd)
      idleFresh := fun hi => by simp [h.running] at hi }

/-- `Fx0A` leaves the key wait as the latest request (R157). -/
theorem Executing.after_keyWait (x : Reg) : StateInv { emit .keyWait s with waitX := x, mode := .waitKey } :=
  { h.inv with
    faultRecorded := iff_of_false nofun (by simp [h.inv.faultCode_eq (by simp [h.running])])
    waitOutstanding := fun _ => rfl
    renderOutstanding := fun hr => by simp [h.noRender] at hr
    idleFresh := nofun }

end

theorem addrOperand_toNat (nnn : BitVec 12) : (addrOperand nnn).toNat = nnn.toNat :=
  BitVec.toNat_setWidth_of_le (by decide)

theorem addrOperand_le (nnn : BitVec 12) : (addrOperand nnn).toNat ≤ 0x10FE := by
  rw [addrOperand_toNat]
  omega

/-- The target of `Bnnn` is at most `0xFF + 0xFFF` (R88). -/
theorem jpV0Target_le (s : State) (nnn : BitVec 12) : (wordOperand s 0 + addrOperand nnn).toNat ≤ 0x10FE := by
  have hv : (wordOperand s 0).toNat = (getV s 0).toNat := BitVec.toNat_setWidth_of_le (by decide)
  rw [BitVec.toNat_add, hv, addrOperand_toNat]
  omega

/-- Every instruction keeps the invariant. -/
theorem exec_next_inv (i : Instr) (s : State) (h : Executing s) : ∃ t, exec i s = .next t ∧ StateInv t :=
  match i with
  | .cls => ⟨_, rfl, (h.after_emit _).inv⟩
  | .ret => ⟨_, rfl, h.after_pop_setPc⟩
  | .jp nnn => ⟨_, rfl, h.after_setPc (addrOperand_le nnn)⟩
  | .call nnn => ⟨_, rfl, h.after_push_setPc (addrOperand_le nnn)⟩
  | .seVxKk _ _ => ⟨_, rfl, h.after_skipIf _⟩
  | .sneVxKk _ _ => ⟨_, rfl, h.after_skipIf _⟩
  | .seVxVy _ _ _ => ⟨_, rfl, h.after_skipIf _⟩
  | .ldVxKk x _ => ⟨_, rfl, (h.after_setV x _).inv⟩
  | .addVxKk x _ => ⟨_, rfl, (h.after_setV x _).inv⟩
  | .ldVxVy x _ => ⟨_, rfl, (h.after_setV x _).inv⟩
  | .orVxVy x _ => ⟨_, rfl, (h.after_setV x _).inv⟩
  | .andVxVy x _ => ⟨_, rfl, (h.after_setV x _).inv⟩
  | .xorVxVy x _ => ⟨_, rfl, (h.after_setV x _).inv⟩
  | .addVxVy x _ => ⟨_, rfl, (h.after_flagThenResult _ x _).inv⟩
  | .subVxVy x _ => ⟨_, rfl, (h.after_flagThenResult _ x _).inv⟩
  | .shrVx x _ => ⟨_, rfl, (h.after_flagThenResult _ x _).inv⟩
  | .subnVxVy x _ => ⟨_, rfl, (h.after_flagThenResult _ x _).inv⟩
  | .shlVx x _ => ⟨_, rfl, (h.after_flagThenResult _ x _).inv⟩
  | .sneVxVy _ _ _ => ⟨_, rfl, h.after_skipIf _⟩
  | .ldINnn _ => ⟨_, rfl, (h.after_setI _).inv⟩
  | .jpV0Nnn nnn => ⟨_, rfl, h.after_setPc (jpV0Target_le s nnn)⟩
  | .rndVxKk x _ => ⟨_, rfl, (h.after_setV x _).inv⟩
  | .drwVxVyN _ _ n => ⟨_, rfl, h.after_checkedAccess n.isLt.le fun _ => ((h.after_emit _).after_setV flagReg _).inv⟩
  | .skpVx _ => ⟨_, rfl, (h.after_emit _).after_skipIf _⟩
  | .sknpVx _ => ⟨_, rfl, (h.after_emit _).after_skipIf _⟩
  | .ldVxDt x => ⟨_, rfl, (h.after_setV x _).inv⟩
  | .ldVxK x => ⟨_, rfl, h.after_keyWait x⟩
  | .ldDtVx _ => ⟨_, rfl, (h.after_timerWriteDt _).inv⟩
  | .ldStVx _ => ⟨_, rfl, (h.after_timerWriteSt _).inv⟩
  | .addIVx _ => ⟨_, rfl, (h.after_setI _).inv⟩
  | .ldFVx _ => ⟨_, rfl, (h.after_setI _).inv⟩
  | .ldBVx x => ⟨_, rfl, h.after_checkedStore (len := 3) (by decide) (by decide) rfl⟩
  | .ldMemIVx x => ⟨_, rfl, h.after_checkedStore x.isLt (Nat.succ_ne_zero _) (regsUpTo_length s x)⟩
  | .ldVxMemI x => ⟨_, rfl, h.after_checkedAccess x.isLt fun _ => (h.after_loadRegs x _ (readBytes_length s _ _)).inv⟩

/-! ### The core's turn -/

/-- The fetch: the word at `PC` with `PC` advanced, or the fault with `PC` as it was (R45, R63). -/
theorem fetch_cases (s : State) :
    (∃ w, s.pc.toNat ≤ 0xFFE ∧ fetch s = .ok (w, setPc (s.pc + 2) s)) ∨
    (0xFFE < s.pc.toNat ∧ fetch s = .error (raiseFault .outOfBounds (s.pc.setWidth 17) s)) := by
  unfold fetch readWord
  cases hb : accessInBounds s.pc.toNat 2 with
  | true =>
    have := (accessInBounds_iff _ _).1 hb
    exact .inl ⟨_, by omega, rfl⟩
  | false =>
    have := mt (accessInBounds_iff s.pc.toNat 2).2 (by simp [hb])
    exact .inr ⟨by omega, rfl⟩

theorem Executing.after_runWord {s : State} (h : Executing s) (w : Word) : ∃ t, runWord w s = .next t ∧ StateInv t := by
  unfold runWord
  cases decodeWord w with
  | ok i =>
    obtain ⟨t, ht, hinv⟩ := exec_next_inv i s h
    exact ⟨_, by simp only [ht, finishCycle], hinv.after_requestRender⟩
  | error e =>
    refine ⟨_, rfl, h.after_raiseFault (by decide) ?_⟩
    rw [BitVec.toNat_setWidth_of_le (by decide)]
    omega

theorem StateInv.after_runCycle {s : State} (h : StateInv s) (hm : s.mode = .running) (hp : s.renderPending = false) :
    ∃ t, runCycle s = .next t ∧ StateInv t := by
  unfold runCycle
  obtain ⟨w, hpc, hf⟩ | ⟨-, hf⟩ := fetch_cases s <;> rw [hf]
  · have hadv : (s.pc + 2).toNat ≤ 0x1000 := by bv_omega
    have hx : Executing (setPc (s.pc + 2) s) := {
      inv := { h with
        pcBound := hadv.trans (by decide)
        idleFresh := fun hi => by simp [hm] at hi }
      running := hm
      noRender := hp
      pcFetched := hadv }
    exact hx.after_runWord w
  · refine ⟨_, rfl, h.after_raiseFault hp (by decide) ?_⟩
    rw [BitVec.toNat_setWidth_of_le (by decide)]
    omega

theorem StateInv.after_coreTurn {s : State} (h : StateInv s) : ∃ t, coreTurn s = .next t ∧ StateInv t := by
  unfold coreTurn
  cases hm : s.mode with
  | running =>
    cases hp : s.renderPending with
    | true => exact ⟨s, rfl, h⟩
    | false => exact h.after_runCycle hm hp
  | _ => exact ⟨s, rfl, h⟩

/-! ### Every move -/

theorem StateInv.after_act {s : State} (h : StateInv s) (e : Event) : ∃ t, act e s = .next t ∧ StateInv t :=
  match e with
  | .reset => ⟨_, rfl, resetMeetsTheInvariant.outside _ _ _ _ _⟩
  | .load bytes => ⟨_, rfl, h.after_hostLoad bytes⟩
  | .start => ⟨_, rfl, h.after_hostStart⟩
  | .clock => ⟨_, rfl, h.after_clockPeriod⟩
  | .exitReq level => ⟨_, rfl, h.after_driveExitReq level⟩
  | .keyEvent k => ⟨_, rfl, h.after_answerKey k⟩
  | .renderAccepted => ⟨_, rfl, h.after_acceptRender⟩
  | .core answers => (h.outside s.exitReq answers s.epoch s.inbox s.now).after_coreTurn

/-- Settles O60: each of the eight moves keeps the invariant, from the state with the move taken. -/
theorem everyStepKeepsTheInvariant : Obligations.EveryStepKeepsTheInvariant := by
  intro s t h hstep
  obtain ⟨u, hu, hinv⟩ := h.after_takeEvent.after_act (nextEvent s)
  obtain rfl : u = t := Host.Outcome.next.inj (hu.symm.trans hstep)
  exact hinv

end Sys2Proof.Machine
end

section
/-! SUPPORT. Memory as the core uses it: the fetch, the word that `withFetchWord` places, and the range check of a data
access. -/

namespace Sys2Proof.Machine

/-! ### Reads after a store, and the word of two bytes -/

theorem readByte_storeBytes_offset (s : State) (a : Nat) (bs : List Byte) (k : Nat) (hk : k < bs.length) :
    readByte (storeBytes a bs s) (a + k) = bs[k] := by
  rw [readByte_storeBytes, dif_pos (by omega)]
  simp only [Nat.add_sub_cancel_left]

theorem wordOfBytes_toNat (hi lo : Byte) : (wordOfBytes hi lo).toNat = hi.toNat * 256 + lo.toNat := by
  rw [wordOfBytes, BitVec.toNat_append, ← Nat.shiftLeft_add_eq_or_of_lt lo.isLt, Nat.shiftLeft_eq]

/-! ### The fetch and the core's turn -/

/-- The two bytes at `PC` as one word, the byte at `PC` high (R42). -/
def wordAtPc (s : State) : Word := wordOfBytes (readByte s s.pc.toNat) (readByte s (s.pc.toNat + 1))

theorem fetch_of_le {s : State} (h : s.pc.toNat ≤ 0xFFE) : fetch s = .ok (wordAtPc s, setPc (s.pc + 2) s) := by
  have hin : accessInBounds s.pc.toNat 2 = true := (accessInBounds_iff _ _).2 (.inr (by omega))
  rw [fetch, readWord, if_pos hin, wordAtPc]

theorem fetch_of_lt {s : State} (h : 0xFFE < s.pc.toNat) :
    fetch s = .error (raiseFault .outOfBounds (s.pc.setWidth 17) s) := by
  obtain ⟨w, hle, -⟩ | ⟨-, hf⟩ := fetch_cases s
  · omega
  · exact hf

/-- A step in which the core executes is one run-loop cycle from the state of its turn. -/
theorem step_of_coreRuns {s : State} {a : Answers} (h : CoreRuns a s) : step s = runCycle (turnState a s) := by
  obtain ⟨hev, hmode, hrender⟩ := h
  have hturn : step s = coreTurn (turnState a s) := by rw [step, hev]; rfl
  have hmode' : (turnState a s).mode = .running := hmode
  have hrender' : (turnState a s).renderPending = false := hrender
  rw [hturn, coreTurn, hmode', hrender']
  rfl

/-- With `PC` in the fetchable range the step runs the word at `PC`, `PC` advanced (R63). -/
theorem step_eq_runWord {s : State} {a : Answers} (h : CoreRuns a s) (hpc : s.pc.toNat ≤ 0xFFE) :
    step s = runWord (wordAtPc s) (executeState a s) := by
  rw [step_of_coreRuns h, runCycle, fetch_of_le (s := turnState a s) hpc]
  rfl

theorem runWord_of_decode {w : Word} {i : Instr} (h : decodeWord w = .ok i) (s : State) :
    runWord w s = finishCycle (exec i s) := by
  rw [runWord, h]

/-! ### The word that `withFetchWord` places -/

section
variable {s : State} (w : Word) (h : s.pc.toNat ≤ 0xFFE)
include h

theorem placeWord_of_le : placeWord w s = storeBytes s.pc.toNat [w.extractLsb' 8 8, w.extractLsb' 0 8] s :=
  if_pos ((accessInBounds_iff _ _).2 (.inr (by omega)))

theorem placeWord_pc : (placeWord w s).pc = s.pc := by rw [placeWord_of_le w h, storeBytes_pc]

theorem frame_placeWord : Frame (cellsFrom s.pc.toNat 2) s (placeWord w s) :=
  placeWord_of_le w h ▸ frame_storeBytes s s.pc.toNat [w.extractLsb' 8 8, w.extractLsb' 0 8]

/-- The placed word is the one at `PC`: its high byte was stored at `PC` and its low byte after it. -/
theorem wordAtPc_placeWord : wordAtPc (placeWord w s) = w := by
  have hread := readByte_storeBytes_offset s s.pc.toNat [w.extractLsb' 8 8, w.extractLsb' 0 8]
  rw [wordAtPc, placeWord_pc w h, placeWord_of_le w h, hread 1 (by simp),
    show readByte _ s.pc.toNat = _ from hread 0 (by simp)]
  exact wordOfBytes_bytes w

end

theorem coreRuns_readyToFetch (s : State) : CoreRuns s.answers (readyToFetch s) := ⟨rfl, rfl, rfl⟩

/-- The settled turn is taken again, so of the moves only the count is left changed. -/
theorem frame_executeState_readyToFetch (s : State) :
    Frame (among [.pc, .mode, .renderPending, .now]) s (executeState s.answers (readyToFetch s)) := fun p hp => by
  cases p with
  | pc | mode | renderPending | now => simp [among] at hp
  | _ => rfl

theorem decodeWord_of_decodeTableWord {w : Nat} {i : Instr} (h : decodeTableWord 16 w = some i) :
    decodeWord (BitVec.ofNat 16 (w % 2 ^ 16)) = .ok i := by
  have hbytes : wordOfBytes (BitVec.ofNat 8 (w % 2 ^ 16 / 256)) (BitVec.ofNat 8 (w % 2 ^ 16)) =
      BitVec.ofNat 16 (w % 2 ^ 16) := by
    apply BitVec.eq_of_toNat_eq
    rw [wordOfBytes_toNat]
    simp only [BitVec.toNat_ofNat]
    omega
  simp only [decodeTableWord, decode, hbytes] at h
  cases hd : decodeWord (BitVec.ofNat 16 (w % 2 ^ 16)) with
  | ok j =>
    rw [hd] at h
    exact congrArg Except.ok (Option.some.inj h)
  | error e =>
    rw [hd] at h
    cases h

/-! ### The range check of a data access -/

theorem checkedAccess_of_le {len : Nat} {s : State} (h : len = 0 ∨ dataBase s + len ≤ 4096) (f : State → State) :
    checkedAccess len s f = f s :=
  if_pos ((accessInBounds_iff _ _).2 h)

/-- An access whose last address is beyond memory is fault entry with that address, whatever its effect would be. -/
theorem faultTaken_checkedAccess {len : Nat} {s : State} (hpos : 1 ≤ len) (hlen : len ≤ 16)
    (hout : 4095 < dataBase s + len - 1) (f : State → State) :
    FaultTaken .outOfBounds (dataBase s + len - 1) s (checkedAccess len s f) := by
  obtain ⟨hin, -⟩ | ⟨-, hf⟩ := checkedAccess_cases len s f
  · exact absurd ((accessInBounds_iff _ _).1 hin) (by omega)
  · have hbase : dataBase s < 65536 := s.i.isLt
    have hinfo : (BitVec.ofNat 17 (dataBase s + len - 1)).toNat = dataBase s + len - 1 := by
      rw [BitVec.toNat_ofNat]
      omega
    have hfault := faultTaken_raiseFault s .outOfBounds (BitVec.ofNat 17 (dataBase s + len - 1))
    rwa [hinfo, ← hf] at hfault

/-! ### The statements -/

/-- Settles O18: the placed word is the one the core's turn fetches, and the turn is the move settled to come next. -/
theorem placedWordIsRunByTheNextStep : Obligations.PlacedWordIsRunByTheNextStep := by
  intro s w i hpc _ hdec
  let u : State := placeWord (BitVec.ofNat 16 (w % 2 ^ 16)) s
  have hle : s.pc.toNat ≤ 0xFFE := by omega
  have hpcu : u.pc = s.pc := placeWord_pc _ hle
  have hword : decodeWord (wordAtPc (readyToFetch u)) = .ok i :=
    (congrArg decodeWord (wordAtPc_placeWord _ hle)).trans (decodeWord_of_decodeTableWord hdec)
  refine ⟨executeState u.answers (readyToFetch u), ?_, congrArg (· + 2) hpcu, rfl, ?_⟩
  · exact (step_eq_runWord (coreRuns_readyToFetch u) (hpcu ▸ hle)).trans (runWord_of_decode hword _)
  · exact ((frame_placeWord _ hle).mono fun _ => .inl).trans ((frame_executeState_readyToFetch u).mono fun _ => .inr)

/-- Settles O43: the cells that `Fx55` wrote at `PC` and after it are the ones that the fetch reads. -/
theorem fetchSeesTheLatestStore : Obligations.FetchSeesTheLatestStore := by
  intro x k s hin hk hpc
  have hread (j : Nat) (hj : j ≤ x.val) :
      readByte (storeBytes (dataBase s) (regsUpTo s x) s) (dataBase s + j) = getV s ⟨j, by omega⟩ := by
    rw [readByte_storeBytes_offset _ _ _ _ (by rw [regsUpTo_length]; omega), regsUpTo_getElem]
  refine ⟨storeBytes (dataBase s) (regsUpTo s x) s, ?_, ?_⟩
  · exact congrArg Host.Outcome.next (checkedAccess_of_le (.inr (by omega)) _)
  · rw [fetch_of_le (by rw [storeBytes_pc]; omega), wordAtPc, storeBytes_pc, hpc, hread k (by omega), Nat.add_assoc,
      hread (k + 1) hk]

/-- Settles O11: beyond `0x0FFE` the cycle ends at the fetch, in fault entry from the state of the turn. -/
theorem fetchBeyondMemoryFaults : Obligations.FetchBeyondMemoryFaults := by
  refine ⟨fun s a hruns hpc => ?_, fun s hpc => ⟨_, fetch_of_le hpc⟩⟩
  have hout : 0xFFE < (turnState a s).pc.toNat := show 0xFFE < s.pc.toNat by omega
  refine ⟨_, by rw [step_of_coreRuns hruns, runCycle, fetch_of_lt hout], ?_⟩
  have hinfo : ((turnState a s).pc.setWidth 17).toNat = s.pc.toNat := BitVec.toNat_setWidth_of_le (by decide)
  exact hinfo ▸ faultTaken_raiseFault _ _ _

/-- Settles O12: the fetch gives the two bytes at `PC` as one word and writes `PC` only. -/
theorem fetchIsBigEndianAndAdvances : Obligations.FetchIsBigEndianAndAdvances := by
  intro s hpc
  refine ⟨_, _, fetch_of_le (by omega), wordOfBytes_toNat _ _, ?_, frame_setPc s _⟩
  rw [setPc_pc]
  bv_omega

/-- Settles O42: the range check comes before any effect, and an access of no bytes passes it. -/
theorem outOfRangeAccessFaultsFirst : Obligations.OutOfRangeAccessFaultsFirst := by
  refine ⟨fun x s h => ⟨_, rfl, ?_⟩, fun x s h => ⟨_, rfl, ?_⟩, fun x s h => ⟨_, rfl, ?_⟩,
    fun x y n s hn h => ⟨_, rfl, ?_⟩, fun x y s => ⟨_, rfl, ?_⟩⟩
  · exact faultTaken_checkedAccess (len := 3) (by decide) (by decide) h _
  · exact faultTaken_checkedAccess (len := x.val + 1) (Nat.succ_pos _) x.isLt h _
  · exact faultTaken_checkedAccess (len := x.val + 1) (Nat.succ_pos _) x.isLt h _
  · exact faultTaken_checkedAccess hn n.isLt.le h _
  · rw [checkedAccess_of_le (len := (0 : BitVec 4).toNat) (.inl rfl)]
    exact ⟨rfl, rfl, rfl⟩

end Sys2Proof.Machine
end

section
/-! SUPPORT. The decoder said once: a word of the illegal space is refused, and every other word decodes to an instruction
whose word it is; and the decoder on the word, the bytes and the table number of an instruction. -/

namespace Sys2Proof

open Laws

/-! ### Every word is illegal or the word of an instruction -/

/-- The illegal space of R68: the words of the classes 0x0, 0x8, 0xE and 0xF whose sub-key has no row. -/
def IllegalSpace (w : Word) : Prop :=
  (opField w = 0x0 ∧ nnnField w ≠ 0x0E0 ∧ nnnField w ≠ 0x0EE) ∨
  (opField w = 0x8 ∧ nField w ∈ [0x8#4, 0x9#4, 0xA#4, 0xB#4, 0xC#4, 0xD#4, 0xF#4]) ∨
  (opField w = 0xE ∧ kkField w ∉ [0x9E#8, 0xA1#8]) ∨
  (opField w = 0xF ∧ kkField w ∉ [0x07#8, 0x0A#8, 0x15#8, 0x18#8, 0x1E#8, 0x29#8, 0x33#8, 0x55#8, 0x65#8])

/-- `r` refuses the word when it is illegal, and is otherwise an instruction whose word it is. -/
def DecodesUnless (illegal : Prop) (w : Word) (r : Except DecodeError Instr) : Prop :=
  (illegal ∧ r = .error (.illegalInstruction w)) ∨ (¬ illegal ∧ ∃ i, r = .ok i ∧ encode i = w)

section
variable {illegal : Prop} {w : Word}

theorem DecodesUnless.refused (h : illegal) : DecodesUnless illegal w (.error (.illegalInstruction w)) := .inl ⟨h, rfl⟩

theorem DecodesUnless.accepted {i : Instr} (h : ¬ illegal) (hw : encode i = w) : DecodesUnless illegal w (.ok i) :=
  .inr ⟨h, i, rfl, hw⟩

theorem formatA_of_key {op : BitVec 4} {nnn : BitVec 12} (h : opField w = op) (hk : nnnField w = nnn) :
    formatA op nnn = w := h ▸ hk ▸ formatA_fields w

theorem formatXK_of_key {op : BitVec 4} {kk : Byte} (h : opField w = op) (hk : kkField w = kk) :
    formatXK op (xField w) kk = w := h ▸ hk ▸ formatXK_fields w

theorem formatXY_of_key {op n : BitVec 4} (h : opField w = op) (hk : nField w = n) :
    formatXY op (xField w) (yField w) n = w := h ▸ hk ▸ formatXY_fields w

theorem decodeClass0_spec (h : opField w = 0x0) :
    DecodesUnless (nnnField w ≠ 0x0E0 ∧ nnnField w ≠ 0x0EE) w (decodeClass0 w) := by
  unfold decodeClass0
  split
  case h_3 h0 h1 => exact .refused ⟨h0, h1⟩
  all_goals exact .accepted (by simp [*]) (formatA_of_key h ‹_›)

/-- The sub-keys without a row are the nibbles that the nine rows leave. -/
theorem decodeClass8_spec (h : opField w = 0x8) :
    DecodesUnless (nField w ∈ [0x8#4, 0x9#4, 0xA#4, 0xB#4, 0xC#4, 0xD#4, 0xF#4]) w (decodeClass8 w) := by
  unfold decodeClass8
  split
  case h_10 =>
    refine .refused ?_
    generalize nField w = n at *
    revert n
    decide
  all_goals exact .accepted (by simp [*]) (formatXY_of_key h ‹_›)

theorem decodeClassE_spec (h : opField w = 0xE) :
    DecodesUnless (kkField w ∉ [0x9E#8, 0xA1#8]) w (decodeClassE w) := by
  unfold decodeClassE
  split
  case h_3 h9E hA1 => exact .refused (by simpa using ⟨h9E, hA1⟩)
  all_goals exact .accepted (by simp [*]) (formatXK_of_key h ‹_›)

theorem decodeClassF_spec (h : opField w = 0xF) :
    DecodesUnless (kkField w ∉ [0x07#8, 0x0A#8, 0x15#8, 0x18#8, 0x1E#8, 0x29#8, 0x33#8, 0x55#8, 0x65#8]) w
      (decodeClassF w) := by
  unfold decodeClassF
  split
  case h_10 => exact .refused (by simp_all)
  all_goals exact .accepted (by simp [*]) (formatXK_of_key h ‹_›)

end

/-- The decoder said once. The case tags are the arms of `decodeWord` in their order: first the four classes with a sub-key,
then the others by the format of their row, where no word is illegal. -/
theorem decodeWord_spec (w : Word) : DecodesUnless (IllegalSpace w) w (decodeWord w) := by
  unfold decodeWord
  split
  case h_1 h => simpa [IllegalSpace, h] using decodeClass0_spec h
  case h_9 h => simpa [IllegalSpace, h] using decodeClass8_spec h
  case h_15 h => simpa [IllegalSpace, h] using decodeClassE_spec h
  case h_16 =>
    have h : opField w = 0xF := by
      generalize opField w = n at *
      revert n
      decide
    simpa [IllegalSpace, h] using decodeClassF_spec h
  case h_2 h | h_3 h | h_11 h | h_12 h => exact .accepted (by simp [IllegalSpace, h]) (formatA_of_key h rfl)
  case h_4 h | h_5 h | h_7 h | h_8 h | h_13 h => exact .accepted (by simp [IllegalSpace, h]) (formatXK_of_key h rfl)
  case h_6 h | h_10 h | h_14 h => exact .accepted (by simp [IllegalSpace, h]) (formatXY_of_key h rfl)

theorem encode_of_decodeWord {w : Word} {i : Instr} (h : decodeWord w = .ok i) : encode i = w := by
  obtain ⟨-, hr⟩ | ⟨-, j, hj, hw⟩ := decodeWord_spec w
  · cases hr.symm.trans h
  · cases hj.symm.trans h
    exact hw

theorem decodeWord_illegal_iff (w : Word) : decodeWord w = .error (.illegalInstruction w) ↔ IllegalSpace w := by
  obtain ⟨hill, hr⟩ | ⟨hleg, j, hj, -⟩ := decodeWord_spec w
  · exact iff_of_true hr hill
  · exact iff_of_false (by simp [hj]) hleg

/-! ### The word of an instruction -/

theorem decodeWord_encode (i : Instr) : decodeWord (encode i) = .ok i := by
  cases i with
  | cls | ret => rfl
  | jp nnn | call nnn | ldINnn nnn | jpV0Nnn nnn => simp [encode, decodeWord]
  | seVxKk x kk | sneVxKk x kk | ldVxKk x kk | addVxKk x kk | rndVxKk x kk => simp [encode, decodeWord]
  | seVxVy x y n | sneVxVy x y n | drwVxVyN x y n => simp [encode, decodeWord]
  | ldVxVy x y | orVxVy x y | andVxVy x y | xorVxVy x y | addVxVy x y | subVxVy x y | shrVx x y | subnVxVy x y
  | shlVx x y => simp [encode, decodeWord, decodeClass8]
  | skpVx x | sknpVx x => simp [encode, decodeWord, decodeClassE]
  | ldVxDt x | ldVxK x | ldDtVx x | ldStVx x | addIVx x | ldFVx x | ldBVx x | ldMemIVx x | ldVxMemI x =>
    simp [encode, decodeWord, decodeClassF]

/-- The row laws of the single instructions, as one (R66). -/
theorem encode_and_rowMask (i : Instr) : encode i &&& i.rowMask = i.rowMatch :=
  match i with
  | .cls => RowMatch.cls
  | .ret => RowMatch.ret
  | .jp nnn => RowMatch.jp nnn
  | .call nnn => RowMatch.call nnn
  | .seVxKk x kk => RowMatch.seVxKk x kk
  | .sneVxKk x kk => RowMatch.sneVxKk x kk
  | .seVxVy x y n => RowMatch.seVxVy x y n
  | .ldVxKk x kk => RowMatch.ldVxKk x kk
  | .addVxKk x kk => RowMatch.addVxKk x kk
  | .ldVxVy x y => RowMatch.ldVxVy x y
  | .orVxVy x y => RowMatch.orVxVy x y
  | .andVxVy x y => RowMatch.andVxVy x y
  | .xorVxVy x y => RowMatch.xorVxVy x y
  | .addVxVy x y => RowMatch.addVxVy x y
  | .subVxVy x y => RowMatch.subVxVy x y
  | .shrVx x y => RowMatch.shrVx x y
  | .subnVxVy x y => RowMatch.subnVxVy x y
  | .shlVx x y => RowMatch.shlVx x y
  | .sneVxVy x y n => RowMatch.sneVxVy x y n
  | .ldINnn nnn => RowMatch.ldINnn nnn
  | .jpV0Nnn nnn => RowMatch.jpV0Nnn nnn
  | .rndVxKk x kk => RowMatch.rndVxKk x kk
  | .drwVxVyN x y n => RowMatch.drwVxVyN x y n
  | .skpVx x => RowMatch.skpVx x
  | .sknpVx x => RowMatch.sknpVx x
  | .ldVxDt x => RowMatch.ldVxDt x
  | .ldVxK x => RowMatch.ldVxK x
  | .ldDtVx x => RowMatch.ldDtVx x
  | .ldStVx x => RowMatch.ldStVx x
  | .addIVx x => RowMatch.addIVx x
  | .ldFVx x => RowMatch.ldFVx x
  | .ldBVx x => RowMatch.ldBVx x
  | .ldMemIVx x => RowMatch.ldMemIVx x
  | .ldVxMemI x => RowMatch.ldVxMemI x

/-! ### The bytes and the table number of a word -/

theorem decode_two_bytes (hi lo : Byte) (rest : List Byte) :
    decode (hi :: lo :: rest) = (decodeWord (wordOfBytes hi lo)).map (·, rest) := rfl

theorem decode_two_bytes_eq_ok {hi lo : Byte} {tail rest : List Byte} {i : Instr}
    (h : decode (hi :: lo :: tail) = .ok (i, rest)) : decodeWord (wordOfBytes hi lo) = .ok i := by
  rw [decode_two_bytes] at h
  cases hd : decodeWord (wordOfBytes hi lo) with
  | ok j =>
    rw [hd] at h
    cases h
    rfl
  | error e =>
    rw [hd] at h
    cases h

theorem decode_encodeBytes (i : Instr) (rest : List Byte) : decode (encodeBytes i ++ rest) = .ok (i, rest) := by
  rw [encodeBytes, List.cons_append, List.cons_append, List.nil_append, decode_two_bytes, wordOfBytes_bytes,
    decodeWord_encode]
  rfl

/-- The two bytes that the table numbering lays out are those of the word. -/
theorem wordOfBytes_tableBytes (w : Word) :
    wordOfBytes (BitVec.ofNat 8 (w.toNat % 2 ^ 16 / 256)) (BitVec.ofNat 8 (w.toNat % 2 ^ 16)) = w := by
  apply BitVec.eq_of_toNat_eq
  rw [Machine.wordOfBytes_toNat]
  simp only [BitVec.toNat_ofNat]
  omega

theorem decodeTableWord_toNat {w : Word} {i : Instr} (h : decodeWord w = .ok i) :
    decodeTableWord 16 w.toNat = some i := by
  simp only [decodeTableWord, decode_two_bytes, wordOfBytes_tableBytes, h, Except.map]

/-! ### The statements about the encoding -/

/-- Settles O20: the bytes and the table number of an instruction lay out its word, and the decoder reads the operands of
its format back from it. -/
theorem decodeOfEncodeIsTheInstruction : Obligations.DecodeOfEncodeIsTheInstruction := fun i rest =>
  ⟨decodeWord_encode i, decode_encodeBytes i rest, decodeTableWord_toNat (decodeWord_encode i)⟩

/-- Settles O21: the decoder answers an instruction whose word was given, and each such word is one of its row. -/
theorem encodeOfDecodeIsTheWord : Obligations.EncodeOfDecodeIsTheWord := by
  intro w i h
  have hw : encode i = w := encode_of_decodeWord h
  exact ⟨hw, hw ▸ encode_and_rowMask i⟩

/-- Settles O22: outside the illegal space every word decodes. -/
theorem illegalSpaceIsExactlyTheFourClasses : Obligations.IllegalSpaceIsExactlyTheFourClasses := decodeWord_illegal_iff

/-- Settles O19: each word is the encoding of its instruction. -/
theorem knownWordsDecodeAsTheSpecSays : Obligations.KnownWordsDecodeAsTheSpecSays :=
  ⟨decodeWord_encode .cls, decodeWord_encode .ret, decodeWord_encode (.jp 0x234), decodeWord_encode (.seVxKk 1 0x42),
    decodeWord_encode (.addVxVy 1 2), decodeWord_encode (.ldINnn 0x300), decodeWord_encode (.rndVxKk 1 0x0F),
    decodeWord_encode (.drwVxVyN 0 1 5), decodeWord_encode (.skpVx 2), decodeWord_encode (.ldVxMemI 3)⟩

end Sys2Proof
end

section
/-! SUPPORT. The core's turn by what the decoder makes of the word at `PC`. -/

namespace Sys2Proof.Machine

section
variable {s : State} {w : Word}

theorem readWord_pc_eq_some (h : readWord s s.pc.toNat = some w) : s.pc.toNat ≤ 0xFFE ∧ wordAtPc s = w := by
  rw [readWord, Option.ite_none_right_eq_some] at h
  obtain ⟨hin, hw⟩ := h
  have hpc := (accessInBounds_iff _ _).1 hin
  exact ⟨by omega, Option.some.inj hw⟩

theorem runWord_of_error {e : DecodeError} (h : decodeWord w = .error e) (s : State) :
    runWord w s = .next (raiseFault .illegalInstruction (w.setWidth 17) s) := by
  rw [runWord, h]

end

/-- Settles O13: the fetched word is refused, and what follows is fault entry from the state with `PC` advanced. -/
theorem illegalWordHaltsTheCore : Obligations.IllegalWordHaltsTheCore := by
  intro s a w e hruns hread hdec
  obtain ⟨hpc, rfl⟩ := readWord_pc_eq_some hread
  refine ⟨_, (step_eq_runWord hruns hpc).trans (runWord_of_error hdec _), ?_, rfl⟩
  have hinfo : ((wordAtPc s).setWidth 17).toNat = (wordAtPc s).toNat := BitVec.toNat_setWidth_of_le (by decide)
  exact hinfo ▸ faultTaken_raiseFault _ _ _

/-- Settles O14: the two bytes at `PC` are the word that the step runs. -/
theorem stepRunsTheDecodedInstruction : Obligations.StepRunsTheDecodedInstruction := by
  intro s a i rest hruns hpc hdec
  have hword : decodeWord (wordAtPc s) = .ok i := decode_two_bytes_eq_ok hdec
  exact (step_eq_runWord hruns (by omega)).trans (runWord_of_decode hword _)

end Sys2Proof.Machine
end

section
/-! SUPPORT. The control-flow instructions: the stack operations by their case, the jumps' targets and the skips. -/

namespace Sys2Proof.Machine

/-! ### The stack operations by their case -/

section
variable {s : State}

theorem push_of_depth_ne (h : Config.stackDepth ≠ some s.stack.length) (w : Word) (f : State → State) :
    push w s f = f { s with stack := w :: s.stack } :=
  if_neg (mt (stackFull_iff _).1 h)

theorem pop_of_nil (h : s.stack = []) (f : Word → State → State) : pop s f = raiseFault .stackUnderflow 0 s := by
  rw [pop, h]

theorem pop_of_cons {w : Word} {rest : List Word} (h : s.stack = w :: rest) (f : Word → State → State) :
    pop s f = f w { s with stack := rest } := by
  rw [pop, h]

/-- `2nnn` below the stack bound. -/
theorem exec_call_of_depth_ne (h : Config.stackDepth ≠ some s.stack.length) (nnn : BitVec 12) :
    exec (.call nnn) s = .next (setPc (addrOperand nnn) { s with stack := s.pc :: s.stack }) :=
  congrArg Host.Outcome.next (push_of_depth_ne h _ _)

/-- `00EE` on an empty stack. -/
theorem exec_ret_of_nil (h : s.stack = []) : exec .ret s = .next (raiseFault .stackUnderflow 0 s) :=
  congrArg Host.Outcome.next (pop_of_nil h _)

/-- `00EE` on a nonempty stack. -/
theorem exec_ret_of_cons {w : Word} {rest : List Word} (h : s.stack = w :: rest) :
    exec .ret s = .next (setPc w { s with stack := rest }) :=
  congrArg Host.Outcome.next (pop_of_cons h _)

end

theorem frame_setPc_stack (s : State) (w : Word) (l : List Word) :
    Frame (among [.pc, .stack]) s (setPc w { s with stack := l }) :=
  ((frame_stack s l).subset (by simp)).trans ((frame_setPc _ w).subset (by simp))

/-! ### Jump targets and skips -/

theorem wordOperand_toNat (s : State) (x : Reg) : (wordOperand s x).toNat = (getV s x).toNat :=
  BitVec.toNat_setWidth_of_le (by decide)

/-- The target of `Bnnn` is the exact sum, which fits 16 bits (R88). -/
theorem jpV0Target_toNat (s : State) (nnn : BitVec 12) :
    (wordOperand s 0 + addrOperand nnn).toNat = (getV s 0).toNat + nnn.toNat := by
  rw [BitVec.toNat_add, wordOperand_toNat, addrOperand_toNat]
  omega

/-- `skipIf` on a decided condition is the skip of R87: an executing instruction's `PC` is at most `0x1000`, so adding 2
does not wrap. -/
theorem skipTaken_skipIf {b : Bool} {taken : Prop} (hb : b = true ↔ taken) (s : State) :
    SkipTaken taken s (skipIf b s) := by
  obtain ⟨ht, h⟩ | ⟨hf, h⟩ := skipIf_cases b s <;> rw [h]
  · have hexact : s.pc.toNat ≤ 0x1000 → (s.pc + 2).toNat = s.pc.toNat + 2 := fun hpc => by bv_omega
    exact ⟨fun _ => ⟨rfl, hexact⟩, fun hn => absurd (hb.1 ht) hn⟩
  · exact ⟨fun hp => by simp [hb.2 hp] at hf, fun _ => rfl⟩

/-! ### The statements -/

/-- Settles O27: the return pops the value that the call pushed and restores the stack below it, so the last state is `s`. -/
theorem callThenReturnRoundTrips : Obligations.CallThenReturnRoundTrips := fun _ s h =>
  ⟨_, s, exec_call_of_depth_ne h _, exec_ret_of_cons rfl, frame_refl s _⟩

/-- Settles O23. -/
theorem retPopsOrUnderflows : Obligations.RetPopsOrUnderflows :=
  ⟨fun s w rest h => ⟨_, exec_ret_of_cons h, rfl, rfl, frame_setPc_stack s w rest⟩,
    fun s h => ⟨_, exec_ret_of_nil h, faultTaken_raiseFault s _ _, rfl⟩⟩

/-- Settles O24. -/
theorem jumpsSetPcExactly : Obligations.JumpsSetPcExactly := fun nnn s =>
  ⟨⟨_, rfl, addrOperand_toNat nnn, frame_setPc s _⟩, ⟨_, rfl, jpV0Target_toNat s nnn, frame_setPc s _⟩⟩

/-- Settles O25. -/
theorem callPushesAndJumps : Obligations.CallPushesAndJumps := fun nnn s h =>
  ⟨_, exec_call_of_depth_ne h nnn, rfl, addrOperand_toNat nnn, frame_setPc_stack s _ _⟩

/-- Settles O28. -/
theorem immediateSkipsCompare : Obligations.ImmediateSkipsCompare := fun _ _ s =>
  ⟨⟨_, rfl, skipTaken_skipIf beq_iff_eq s, frame_skipIf s _⟩, ⟨_, rfl, skipTaken_skipIf bne_iff_ne s, frame_skipIf s _⟩⟩

/-- Settles O29: the ignored nibble has no part in the instruction's meaning. -/
theorem registerSkipsCompare : Obligations.RegisterSkipsCompare := fun _ _ _ s =>
  ⟨⟨_, rfl, skipTaken_skipIf beq_iff_eq s, frame_skipIf s _⟩, ⟨_, rfl, skipTaken_skipIf bne_iff_ne s, frame_skipIf s _⟩⟩

end Sys2Proof.Machine
end

section
/-! SUPPORT. The register load, arithmetic and logic instructions: the two statements of a flag writer, with `V[0xF]` as an
operand or not, and the values of the flags. -/

namespace Sys2Proof.Machine

/-! ### One register write -/

section
variable (s : State) {y : Reg} (b : Byte)

theorem getV_setV_same (x : Reg) : getV (setV x b s) x = b := (getV_setV s x x b).trans (if_pos rfl)

theorem getV_setFlag_same : getV (setFlag b s) 15 = b := getV_setV_same s b 15

theorem getV_setFlag_ne (hy : y ≠ 15) : getV (setFlag b s) y = getV s y := (getV_setV s 15 y b).trans (if_neg hy)

end

/-! ### The two statements of a flag writer -/

section
variable (flag : State → Byte) {x : Reg} (result : State → Byte) (s : State)

/-- `V[x]` is written last, from the registers as the flag statement left them (R7). -/
theorem getV_flagThenResult_dest (x : Reg) :
    getV (flagThenResult flag x result s) x = result (setFlag (flag s) s) := getV_setV_same _ _ x

/-- Another destination than `V[0xF]` leaves the flag as its statement wrote it. -/
theorem getV_flagThenResult_flag (hx : x ≠ 15) : getV (flagThenResult flag x result s) 15 = flag s :=
  ((getV_setV _ x 15 _).trans (if_neg hx.symm)).trans (getV_setFlag_same s _)

end

/-- The flag writer on `V[x]` and `V[y]` with the flag `f` and the result `g` of the two: the form of `8xy4`, `8xy5` and
`8xy7`. -/
def flagOp (f g : Byte → Byte → Byte) (x y : Reg) (s : State) : State :=
  flagThenResult (fun s => f (getV s x) (getV s y)) x (fun s => g (getV s x) (getV s y)) s

theorem exec_addVxVy (x y : Reg) (s : State) :
    exec (.addVxVy x y) s = .next (flagOp carryFlag (fun a b => a + b) x y s) := rfl

theorem exec_subVxVy (x y : Reg) (s : State) :
    exec (.subVxVy x y) s = .next (flagOp greaterFlag (fun a b => a - b) x y s) := rfl

theorem exec_subnVxVy (x y : Reg) (s : State) :
    exec (.subnVxVy x y) s = .next (flagOp (fun a b => greaterFlag b a) (fun a b => b - a) x y s) := rfl

/-- `8xy6`: the ignored nibble has no part in it. -/
theorem exec_shrVx (x y : Reg) (s : State) : exec (.shrVx x y) s =
    .next (flagThenResult (fun s => lowBitFlag (getV s x)) x (fun s => getV s x >>> 1) s) := rfl

/-- `8xyE`: the ignored nibble has no part in it. -/
theorem exec_shlVx (x y : Reg) (s : State) : exec (.shlVx x y) s =
    .next (flagThenResult (fun s => highBitFlag (getV s x)) x (fun s => getV s x <<< 1) s) := rfl

/-- The four rows of the tables of R106, R107 and R109, in numbers: `F` is the flag of the two operands and `G` the result.
Where `V[0xF]` is an operand, the result takes the new flag for it; where it is the destination, the result replaces the
flag. -/
structure FlagOpRows (F G : Nat → Nat → Nat) (x y : Reg) (s t : State) : Prop where
  neither : x ≠ 15 → y ≠ 15 → (getV t 15).toNat = F (getV s x).toNat (getV s y).toNat ∧
    (getV t x).toNat = G (getV s x).toNat (getV s y).toNat
  source : x ≠ 15 → y = 15 → (getV t 15).toNat = F (getV s x).toNat (getV s 15).toNat ∧
    (getV t x).toNat = G (getV s x).toNat (F (getV s x).toNat (getV s 15).toNat)
  dest : x = 15 → y ≠ 15 → (getV t 15).toNat = G (F (getV s 15).toNat (getV s y).toNat) (getV s y).toNat
  both : x = 15 → y = 15 → (getV t 15).toNat =
    G (F (getV s 15).toNat (getV s 15).toNat) (F (getV s 15).toNat (getV s 15).toNat)

section
variable {f g : Byte → Byte → Byte}

theorem frame_flagOp (x y : Reg) (s : State) : Frame (among [.v x, .v 15]) s (flagOp f g x y s) :=
  frame_flagThenResult s _ x _

theorem flagOp_rows {F G : Nat → Nat → Nat} (hf : ∀ a b, (f a b).toNat = F a.toNat b.toNat)
    (hg : ∀ a b, (g a b).toNat = G a.toNat b.toNat) (x y : Reg) (s : State) :
    FlagOpRows F G x y s (flagOp f g x y s) where
  neither hx hy := by
    rw [flagOp, getV_flagThenResult_flag _ _ s hx, getV_flagThenResult_dest, getV_setFlag_ne s _ hx,
      getV_setFlag_ne s _ hy, hf, hg]
    exact ⟨rfl, rfl⟩
  source hx hy := by
    rw [hy, flagOp, getV_flagThenResult_flag _ _ s hx, getV_flagThenResult_dest, getV_setFlag_ne s _ hx,
      getV_setFlag_same, hg, hf]
    exact ⟨rfl, rfl⟩
  dest hx hy := by
    rw [hx, flagOp, getV_flagThenResult_dest, getV_setFlag_same, getV_setFlag_ne s _ hy, hg, hf]
  both hx hy := by
    rw [hx, hy, flagOp, getV_flagThenResult_dest, getV_setFlag_same, hg, hf]

end

/-! ### The values of flags and results as numbers -/

section
variable (a b : Byte)

theorem carryFlag_toNat : (carryFlag a b).toNat = if a.toNat + b.toNat > 255 then 1 else 0 :=
  apply_ite BitVec.toNat _ _ _

theorem greaterFlag_toNat : (greaterFlag a b).toNat = if a.toNat > b.toNat then 1 else 0 :=
  apply_ite BitVec.toNat _ _ _

theorem lowBitFlag_toNat : (lowBitFlag a).toNat = a.toNat % 2 :=
  (BitVec.toNat_and a 1).trans (Nat.and_one_is_mod _)

theorem shiftRight_one_toNat : (a >>> 1).toNat = a.toNat / 2 := by
  rw [BitVec.toNat_ushiftRight, Nat.shiftRight_eq_div_pow]

theorem shiftLeft_one_toNat : (a <<< 1).toNat = a.toNat * 2 % 256 := by
  rw [BitVec.toNat_shiftLeft, Nat.shiftLeft_eq]

/-- A byte has no bit above bit 7. -/
theorem highBitFlag_toNat : (highBitFlag a).toNat = a.toNat / 128 := by
  have hbit : (highBitFlag a).toNat = a.toNat / 128 % 2 := by
    rw [highBitFlag, ← lowBitFlag, lowBitFlag_toNat, BitVec.toNat_ushiftRight, Nat.shiftRight_eq_div_pow]
  omega

theorem sub_toNat : (a - b).toNat = (a.toNat + 256 - b.toNat) % 256 := by
  rw [BitVec.toNat_sub]
  omega

/-- `8Fy6`: the flag is one bit, which the shift moves out. -/
theorem lowBitFlag_shiftRight_toNat : (lowBitFlag a >>> 1).toNat = 0 := by
  rw [shiftRight_one_toNat, lowBitFlag_toNat]
  omega

/-- `8FyE`: the flag, doubled. -/
theorem highBitFlag_shiftLeft_toNat : (highBitFlag a <<< 1).toNat = if a.toNat ≥ 128 then 2 else 0 := by
  rw [shiftLeft_one_toNat, highBitFlag_toNat]
  split <;> omega

end

/-! ### The statements -/

/-- Settles O30. -/
theorem registerLoadsCopy : Obligations.RegisterLoadsCopy := fun x _ _ s =>
  ⟨⟨_, rfl, getV_setV_same s _ x, frame_setV s x _⟩, ⟨_, rfl, getV_setV_same s _ x, frame_setV s x _⟩⟩

/-- Settles O31. -/
theorem addImmediateWrapsWithoutFlag : Obligations.AddImmediateWrapsWithoutFlag := fun x kk s =>
  ⟨_, rfl, (congrArg BitVec.toNat (getV_setV_same s _ x)).trans (BitVec.toNat_add _ kk), frame_setV s x _⟩

/-- Settles O32. -/
theorem logicInstructionsLeaveTheFlag : Obligations.LogicInstructionsLeaveTheFlag := fun x _ s =>
  ⟨⟨_, rfl, getV_setV_same s _ x, frame_setV s x _⟩, ⟨_, rfl, getV_setV_same s _ x, frame_setV s x _⟩,
    ⟨_, rfl, getV_setV_same s _ x, frame_setV s x _⟩⟩

/-- Settles O33. `8FF4` doubles the carry. -/
theorem addRegistersSetsCarry : Obligations.AddRegistersSetsCarry := by
  intro x y s
  have h := flagOp_rows (F := fun m n => if m + n > 255 then 1 else 0) (G := fun m n => (m + n) % 256)
    carryFlag_toNat BitVec.toNat_add x y s
  refine ⟨_, exec_addVxVy x y s, frame_flagOp x y s, h.neither, h.source, h.dest, fun hx hy => (h.both hx hy).trans ?_⟩
  by_cases hc : (getV s 15).toNat ≥ 128
  · rw [if_pos hc, if_pos (by omega)]
  · rw [if_neg hc, if_neg (by omega)]

/-- Settles O34. `8FF5` subtracts the flag from itself. -/
theorem subSetsStrictGreater : Obligations.SubSetsStrictGreater := by
  intro x y s
  have h := flagOp_rows (F := fun m n => if m > n then 1 else 0) (G := fun m n => (m + 256 - n) % 256)
    greaterFlag_toNat sub_toNat x y s
  refine ⟨_, exec_subVxVy x y s, frame_flagOp x y s, h.neither, h.source, h.dest, fun hx hy => (h.both hx hy).trans ?_⟩
  rw [Nat.add_sub_cancel_left]

/-- Settles O35: `8xy7` is the subtraction with the operands exchanged. -/
theorem subnSetsStrictGreater : Obligations.SubnSetsStrictGreater := by
  intro x y s
  have h := flagOp_rows (F := fun m n => if n > m then 1 else 0) (G := fun m n => (n + 256 - m) % 256)
    (fun a b => greaterFlag_toNat b a) (fun a b => sub_toNat b a) x y s
  refine ⟨_, exec_subnVxVy x y s, frame_flagOp x y s, h.neither, h.source, h.dest, fun hx hy => (h.both hx hy).trans ?_⟩
  rw [Nat.add_sub_cancel_left]

/-- Settles O36: with `x = 0xF` the flag itself is shifted. -/
theorem shiftsReportTheBitShiftedOut : Obligations.ShiftsReportTheBitShiftedOut := by
  intro x y s
  refine ⟨⟨_, exec_shrVx x y s, frame_flagThenResult s _ x _, ?_, ?_⟩,
    ⟨_, exec_shlVx x y s, frame_flagThenResult s _ x _, ?_, ?_⟩⟩
  · intro hx
    rw [getV_flagThenResult_flag _ _ s hx, getV_flagThenResult_dest, getV_setFlag_ne s _ hx, lowBitFlag_toNat,
      shiftRight_one_toNat]
    exact ⟨rfl, rfl⟩
  · rintro rfl
    rw [getV_flagThenResult_dest, getV_setFlag_same, lowBitFlag_shiftRight_toNat]
  · intro hx
    rw [getV_flagThenResult_flag _ _ s hx, getV_flagThenResult_dest, getV_setFlag_ne s _ hx, highBitFlag_toNat,
      shiftLeft_one_toNat]
    exact ⟨rfl, rfl⟩
  · rintro rfl
    rw [getV_flagThenResult_dest, getV_setFlag_same, highBitFlag_shiftLeft_toNat]

end Sys2Proof.Machine
end

section
/-! SUPPORT. The address register and memory instructions: `Fx33`, `Fx55` and `Fx65` in bounds, and what the cells and the
registers hold after them. -/

namespace Sys2Proof.Machine

/-! ### The data accesses in bounds -/

/-- `V[0]` to `V[x]` stored in the cells from `I` (R125). -/
def storeRegsAtI (x : Reg) (s : State) : State := storeBytes (dataBase s) (regsUpTo s x) s

/-- `V[0]` to `V[x]` loaded from the cells from `I` (R126). -/
def loadRegsAtI (x : Reg) (s : State) : State :=
  setRegs (loadRegs (readBytes s (dataBase s) (x.val + 1)) 0 s.v) s

/-- The digits of `V[x]` stored in the cells from `I` (R124). -/
def storeDigitsAtI (x : Reg) (s : State) : State := storeBytes (dataBase s) (decimalDigits (getV s x)) s

section
variable {x : Reg} {s : State}

theorem exec_ldMemIVx_of_le (h : dataBase s + x.val ≤ 4095) : exec (.ldMemIVx x) s = .next (storeRegsAtI x s) :=
  congrArg Host.Outcome.next (checkedAccess_of_le (.inr (by omega)) _)

theorem exec_ldVxMemI_of_le (h : dataBase s + x.val ≤ 4095) : exec (.ldVxMemI x) s = .next (loadRegsAtI x s) :=
  congrArg Host.Outcome.next (checkedAccess_of_le (.inr (by omega)) _)

theorem exec_ldBVx_of_le (h : dataBase s + 2 ≤ 4095) : exec (.ldBVx x) s = .next (storeDigitsAtI x s) :=
  congrArg Host.Outcome.next (checkedAccess_of_le (.inr (by omega)) _)

end

/-! ### What they change -/

theorem frame_storeRegsAtI (x : Reg) (s : State) : Frame (cellsFrom (dataBase s) (x.val + 1)) s (storeRegsAtI x s) :=
  regsUpTo_length s x ▸ frame_storeBytes s (dataBase s) (regsUpTo s x)

theorem frame_loadRegsAtI (x : Reg) (s : State) : Frame (regsTo x) s (loadRegsAtI x s) :=
  frame_loadRegs s x _ (readBytes_length s _ _)

theorem frame_storeDigitsAtI (x : Reg) (s : State) : Frame (cellsFrom (dataBase s) 3) s (storeDigitsAtI x s) :=
  frame_storeBytes s _ (decimalDigits (getV s x))

/-- A part that the second change gives its value back is not one of those that differ in the end. -/
theorem Frame.trans_restored {c d : Part → Prop} {s t u : State} (hst : Frame c s t) (htu : Frame d t u)
    (hd : ∀ p, d p → p.same s u) : Frame c s u := fun p hp => by
  by_cases hdp : d p
  · exact hd p hdp
  · exact (hst p hp).trans (htu p hdp)

/-! ### What the cells and the registers hold after them -/

section
variable {x k : Reg} (hk : k ≤ x) (s : State)
include hk

theorem readByte_storeRegsAtI : readByte (storeRegsAtI x s) (dataBase s + k.val) = getV s k := by
  have hlt : k.val < (regsUpTo s x).length := by
    rw [regsUpTo_length]
    exact Nat.lt_succ_of_le hk
  rw [storeRegsAtI, readByte_storeBytes_offset s _ _ _ hlt, regsUpTo_getElem]

theorem getV_loadRegsAtI : getV (loadRegsAtI x s) k = readByte s (dataBase s + k.val) := by
  have hlt : 0 ≤ k.val ∧ k.val < 0 + (readBytes s (dataBase s) (x.val + 1)).length := by
    rw [readBytes_length, Nat.zero_add]
    exact ⟨Nat.zero_le _, Nat.lt_succ_of_le hk⟩
  exact ((loadRegs_getElem _ 0 s.v k.val k.isLt).trans (dif_pos hlt)).trans (readBytes_getElem s _ _ _ _)

/-- The store leaves `I` alone, so the load reads the cells that the store wrote. -/
theorem getV_loadRegsAtI_storeRegsAtI : getV (loadRegsAtI x (storeRegsAtI x s)) k = getV s k :=
  (getV_loadRegsAtI hk (storeRegsAtI x s)).trans (readByte_storeRegsAtI hk s)

end

/-- The hundreds, tens and units of `V[x]` in the three cells from `I`: none of them is cut off in a byte. -/
theorem readByte_storeDigitsAtI_toNat (x : Reg) (s : State) :
    (readByte (storeDigitsAtI x s) (dataBase s)).toNat = (getV s x).toNat / 100 ∧
    (readByte (storeDigitsAtI x s) (dataBase s + 1)).toNat = (getV s x).toNat / 10 % 10 ∧
    (readByte (storeDigitsAtI x s) (dataBase s + 2)).toNat = (getV s x).toNat % 10 := by
  have hread (j : Nat) (hj : j < 3) := readByte_storeBytes_offset s (dataBase s) (decimalDigits (getV s x)) j hj
  exact ⟨(congrArg BitVec.toNat (hread 0 (by decide))).trans (Nat.mod_eq_of_lt (by omega)),
    (congrArg BitVec.toNat (hread 1 (by decide))).trans (Nat.mod_eq_of_lt (by omega)),
    (congrArg BitVec.toNat (hread 2 (by decide))).trans (Nat.mod_eq_of_lt (by omega))⟩

/-! ### The values written to `I` -/

theorem addIVxResult_toNat (s : State) (x : Reg) :
    (s.i + wordOperand s x).toNat = (s.i.toNat + (getV s x).toNat) % 65536 := by
  rw [BitVec.toNat_add, wordOperand_toNat]

/-- Five times a byte fits 16 bits (R123). -/
theorem ldFVxResult_toNat (s : State) (x : Reg) : (wordOperand s x * 5).toNat = (getV s x).toNat * 5 := by
  rw [BitVec.toNat_mul, wordOperand_toNat]
  change (getV s x).toNat * 5 % 65536 = _
  omega

/-! ### The statements -/

/-- Settles O44: after the store the load gives every register up to `V[x]` the value it had, so only the cells differ. -/
theorem storeThenLoadGivesTheRegistersBack : Obligations.StoreThenLoadGivesTheRegistersBack := fun x s h =>
  ⟨storeRegsAtI x s, loadRegsAtI x (storeRegsAtI x s), exec_ldMemIVx_of_le h, exec_ldVxMemI_of_le h,
    (frame_storeRegsAtI x s).trans_restored (frame_loadRegsAtI x _) fun
      | _, ⟨_, hk, rfl⟩ => getV_loadRegsAtI_storeRegsAtI hk s⟩

/-- Settles O38. -/
theorem addressRegisterArithmetic : Obligations.AddressRegisterArithmetic := fun x nnn s =>
  ⟨⟨_, rfl, addrOperand_toNat nnn, frame_setI s _⟩, ⟨_, rfl, addIVxResult_toNat s x, frame_setI s _⟩,
    ⟨_, rfl, ldFVxResult_toNat s x, frame_setI s _⟩⟩

/-- Settles O39: the three digits make the byte again by division with remainder. -/
theorem bcdStoresTheThreeDigits : Obligations.BcdStoresTheThreeDigits := by
  intro x s h
  obtain ⟨hhundreds, htens, hunits⟩ := readByte_storeDigitsAtI_toNat x s
  exact ⟨_, exec_ldBVx_of_le h, hhundreds, htens, hunits, by omega, frame_storeDigitsAtI x s⟩

/-- Settles O40. -/
theorem storeRegistersWritesMemory : Obligations.StoreRegistersWritesMemory := fun x s h =>
  ⟨_, exec_ldMemIVx_of_le h, fun _ hk => readByte_storeRegsAtI hk s, frame_storeRegsAtI x s⟩

/-- Settles O41. -/
theorem loadRegistersReadsMemory : Obligations.LoadRegistersReadsMemory := fun x s h =>
  ⟨_, exec_ldVxMemI_of_le h, fun _ hk => getV_loadRegsAtI hk s, frame_loadRegsAtI x s⟩

end Sys2Proof.Machine
end

section
/-! SUPPORT. The random and timer instructions, and the timers across a step: only `Fx15` raises `DT`, only `Fx18`
raises `ST`. -/

namespace Sys2Proof.Machine

/-! ### The instructions -/

/-- No bit outside the mask is left (R140). -/
theorem and_mask_and_not_mask (r kk : Byte) : r &&& kk &&& ~~~kk = 0 := by
  rw [BitVec.and_assoc, BitVec.and_not_self]
  exact BitVec.and_zero

/-- `sound_on` follows `ST` (R198). -/
theorem soundOn_iff (s : State) : soundOn s = true ↔ s.st ≠ 0 := bne_iff_ne

/-- Settles O48. -/
theorem randomByteIsMasked : Obligations.RandomByteIsMasked := fun x kk s =>
  have hv : getV (setV x (s.answers.rnd &&& kk) s) x = s.answers.rnd &&& kk := getV_setV_same s _ x
  ⟨_, rfl, hv, by rw [hv, and_mask_and_not_mask], frame_setV s x _⟩

/-- Settles O49. -/
theorem timerInstructionsMoveBytes : Obligations.TimerInstructionsMoveBytes := fun x s =>
  ⟨⟨_, rfl, getV_setV_same s _ x, frame_setV s x _⟩, ⟨_, rfl, rfl, frame_timerWriteDt s _⟩,
    ⟨_, rfl, rfl, soundOn_iff _, frame_timerWriteSt s _⟩⟩

/-! ### Moves that raise no timer -/

/-- Neither timer is higher in `t` than in `s`. -/
structure TimersNotRaised (s t : State) : Prop where
  dt_le : t.dt.toNat ≤ s.dt.toNat
  st_le : t.st.toNat ≤ s.st.toNat

theorem TimersNotRaised.of_eq {s t : State} (hdt : t.dt = s.dt) (hst : t.st = s.st) : TimersNotRaised s t :=
  ⟨hdt ▸ Nat.le_refl _, hst ▸ Nat.le_refl _⟩

/-- A tick takes 1 from a timer above 0 and leaves one at 0 (R185). -/
theorem tick_toNat_le (b : Byte) : (if b = 0 then 0 else b - 1).toNat ≤ b.toNat := by
  split <;> bv_omega

section
variable (s : State)

theorem timersNotRaised_clockPeriod : TimersNotRaised s (clockPeriod s) := by
  obtain ⟨-, h⟩ | ⟨-, -, h⟩ | ⟨-, -, h⟩ := clockPeriod_cases s <;> rw [h]
  · exact .of_eq rfl rfl
  · exact ⟨tick_toNat_le s.dt, tick_toNat_le s.st⟩
  · exact .of_eq rfl rfl

theorem requestRender_timers : (requestRender s).dt = s.dt ∧ (requestRender s).st = s.st := by
  obtain ⟨-, h⟩ | ⟨-, h⟩ := requestRender_cases s <;> rw [h] <;> exact ⟨rfl, rfl⟩

theorem timersNotRaised_acceptRender : TimersNotRaised s (acceptRender s) := by
  obtain ⟨-, -, h⟩ | ⟨-, h⟩ := acceptRender_cases s <;> rw [h] <;> exact .of_eq rfl rfl

theorem timersNotRaised_answerKey (k : Byte) : TimersNotRaised s (answerKey k s) := by
  unfold answerKey
  split
  · obtain ⟨hdt, hst⟩ := requestRender_timers { setV s.waitX k s with mode := .running }
    exact .of_eq hdt hst
  · exact .of_eq rfl rfl

theorem timersNotRaised_hostLoad (bytes : List Byte) : TimersNotRaised s (hostLoad bytes s) := by
  unfold hostLoad
  split
  · split <;> exact .of_eq rfl rfl
  · exact .of_eq rfl rfl

theorem timersNotRaised_hostStart : TimersNotRaised s (hostStart s) := by
  unfold hostStart
  split <;> exact .of_eq rfl rfl

end

/-- Outside `RUNNING`, and with a render request outstanding, the core's turn does nothing (R180, R181). -/
theorem coreTurn_of_not_ready {s : State} (h : ¬ (s.mode = .running ∧ s.renderPending = false)) :
    coreTurn s = .next s := by
  unfold coreTurn
  cases hm : s.mode with
  | running =>
    have hp : s.renderPending = true := Bool.eq_true_of_not_eq_false fun hp => h ⟨hm, hp⟩
    exact if_pos hp
  | _ => rfl

/-- A move of the timer engine or the environment raises no timer, nor does a turn in which the core executes
nothing. -/
theorem act_timersNotRaised (e : Event) (s : State)
    (h : ∀ a, e = .core a → ¬ (s.mode = .running ∧ s.renderPending = false)) :
    ∃ t, act e s = .next t ∧ TimersNotRaised s t :=
  match e with
  | .reset => ⟨_, rfl, Nat.zero_le _, Nat.zero_le _⟩
  | .load bytes => ⟨_, rfl, timersNotRaised_hostLoad s bytes⟩
  | .start => ⟨_, rfl, timersNotRaised_hostStart s⟩
  | .clock => ⟨_, rfl, timersNotRaised_clockPeriod s⟩
  | .exitReq _ => ⟨_, rfl, .of_eq rfl rfl⟩
  | .keyEvent k => ⟨_, rfl, timersNotRaised_answerKey s k⟩
  | .renderAccepted => ⟨_, rfl, timersNotRaised_acceptRender s⟩
  | .core a => ⟨_, coreTurn_of_not_ready (s := { s with answers := a }) (h a rfl), .of_eq rfl rfl⟩

/-! ### The step that executes an instruction -/

theorem readWord_pc_of_le {s : State} (h : s.pc.toNat ≤ 0xFFE) : readWord s s.pc.toNat = some (wordAtPc s) :=
  if_pos ((accessInBounds_iff _ _).2 (.inr (by omega)))

/-- A step in which the core runs: the instruction at `PC` executes and the render request follows, or the fetch or the
decoder raises a fault, which writes nothing but what fault entry does. -/
theorem step_cases_of_coreRuns {s : State} {a : Answers} (h : CoreRuns a s) :
    (∃ w i u, readWord s s.pc.toNat = some w ∧ decodeWord w = .ok i ∧ exec i (executeState a s) = .next u ∧
      step s = .next (requestRender u)) ∨
    (∃ code info u, (u = turnState a s ∨ u = executeState a s) ∧ step s = .next (raiseFault code info u)) := by
  by_cases hpc : s.pc.toNat ≤ 0xFFE
  · have hstep := step_eq_runWord h hpc
    cases hd : decodeWord (wordAtPc s) with
    | ok i =>
      obtain ⟨u, hu, -⟩ := exec_next_frame i (executeState a s)
      refine .inl ⟨_, i, u, readWord_pc_of_le hpc, hd, hu, ?_⟩
      rw [hstep, runWord_of_decode hd, hu, finishCycle]
    | error e => exact .inr ⟨_, _, _, .inr rfl, hstep.trans (runWord_of_error hd _)⟩
  · have hout : 0xFFE < (turnState a s).pc.toNat := Nat.not_le.1 hpc
    exact .inr ⟨_, _, _, .inl rfl, by rw [step_of_coreRuns h, runCycle, fetch_of_lt hout]⟩

/-- Every step raises no timer or executes the instruction at `PC`. -/
theorem timersNotRaised_or_executes {s t : State} (h : step s = .next t) :
    TimersNotRaised s t ∨
    ∃ a w i u, CoreRuns a s ∧ readWord s s.pc.toNat = some w ∧ decodeWord w = .ok i ∧
      exec i (executeState a s) = .next u ∧ t = requestRender u := by
  by_cases hruns : ∃ a, CoreRuns a s
  · obtain ⟨a, hruns⟩ := hruns
    obtain ⟨w, i, u, hread, hdec, hexec, hu⟩ | ⟨code, info, u, hu, hfault⟩ := step_cases_of_coreRuns hruns
    · exact .inr ⟨a, w, i, u, hruns, hread, hdec, hexec, Host.Outcome.next.inj (h.symm.trans hu)⟩
    · obtain rfl := Host.Outcome.next.inj (h.symm.trans hfault)
      obtain rfl | rfl := hu <;> exact .inl (.of_eq rfl rfl)
  · obtain ⟨u, hu, hle⟩ := act_timersNotRaised (nextEvent s) (takeEvent s) fun a he hready =>
      hruns ⟨a, he, hready⟩
    obtain rfl : u = t := Host.Outcome.next.inj (hu.symm.trans h)
    exact .inl ⟨hle.dt_le, hle.st_le⟩

/-- `DT` stands in the row of `Fx15` only. -/
theorem mayChange_dt {i : Instr} {s : State} (h : mayChange i s .dt) : ∃ x, i = .ldDtVx x := by
  cases i with
  | ldDtVx x => exact ⟨x, rfl⟩
  | _ => simp [mayChange, among, faultParts, dataCells, cellsFrom, regsTo] at h

/-- `ST` stands in the row of `Fx18` only. -/
theorem mayChange_st {i : Instr} {s : State} (h : mayChange i s .st) : ∃ x, i = .ldStVx x := by
  cases i with
  | ldStVx x => exact ⟨x, rfl⟩
  | _ => simp [mayChange, among, faultParts, dataCells, cellsFrom, regsTo] at h

/-- Settles O53: a step that raises a timer executes an instruction, and that instruction's row names the timer. -/
theorem timersRiseOnlyByTheirInstructions : Obligations.TimersRiseOnlyByTheirInstructions := by
  intro s t h
  obtain hle | ⟨a, w, i, u, hruns, hread, hdec, hexec, rfl⟩ := timersNotRaised_or_executes h
  · exact ⟨fun hr => absurd hle.dt_le (Nat.not_le.2 hr), fun hr => absurd hle.st_le (Nat.not_le.2 hr)⟩
  · obtain ⟨hdt, hst⟩ := requestRender_timers u
    refine ⟨fun hr => ?_, fun hr => ?_⟩
    · have hne : u.dt ≠ s.dt := fun he => by simp [hdt, he] at hr
      obtain ⟨x, rfl⟩ := mayChange_dt ((exec_frame hexec).changed (p := .dt) hne)
      exact ⟨a, w, x, hruns, hread, hdec⟩
    · have hne : u.st ≠ s.st := fun he => by simp [hst, he] at hr
      obtain ⟨x, rfl⟩ := mayChange_st ((exec_frame hexec).changed (p := .st) hne)
      exact ⟨a, w, x, hruns, hread, hdec⟩

end Sys2Proof.Machine
end

section
/-! SUPPORT. Display and keypad: the requests of `00E0`, `Dxyn`, `Ex9E`, `ExA1` and `Fx0A`, the answer to the key wait, and
the core's turn while the core waits. -/

namespace Sys2Proof.Machine

/-! ### The core's turn while the core waits -/

theorem frame_takeEvent (s : State) : Frame (among [.inbox, .now]) s (takeEvent s) := fun p hp => by
  cases p with
  | inbox | now => simp [among] at hp
  | _ => rfl

theorem frame_turnState (a : Answers) (s : State) : Frame (among [.answers, .inbox, .now]) s (turnState a s) :=
  fun p hp => by
    cases p with
    | answers | inbox | now => simp [among] at hp
    | _ => rfl

/-- A turn of the core in which it executes nothing leaves the state in which the turn began. -/
theorem step_of_core_not_ready {s : State} {a : Answers} (hev : nextEvent s = .core a)
    (h : ¬ (s.mode = .running ∧ s.renderPending = false)) : step s = .next (turnState a s) := by
  rw [step, hev]
  exact coreTurn_of_not_ready (s := turnState a s) h

/-! ### The draw request and its answer -/

theorem readBytes_getElem_eq_some (s : State) (a : Nat) {len k : Nat} (h : k < len) :
    (readBytes s a len)[k]? = some (readByte s (a + k)) := by
  have hk : k < (readBytes s a len).length := by rwa [readBytes_length]
  rw [List.getElem?_eq_getElem hk, readBytes_getElem]

theorem bitByte_toNat (b : Bool) : (bitByte b).toNat = if b then 1 else 0 := apply_ite BitVec.toNat _ _ _

/-- After `Dxyn` in bounds: the draw request issued, the collision bit in `V[0xF]` (R152). -/
def drawn (x y : Reg) (n : BitVec 4) (s : State) : State :=
  setFlag (bitByte s.answers.collision)
    (emit (.draw n (readBytes s (dataBase s) n.toNat) (getV s x) (getV s y)) s)

theorem exec_drwVxVyN_of_le {n : BitVec 4} {s : State} (h : n.toNat = 0 ∨ dataBase s + n.toNat ≤ 4096) (x y : Reg) :
    exec (.drwVxVyN x y n) s = .next (drawn x y n s) :=
  congrArg Host.Outcome.next (checkedAccess_of_le h _)

theorem frame_drawn (x y : Reg) (n : BitVec 4) (s : State) : Frame (among [.v 15, .out]) s (drawn x y n s) :=
  ((frame_emit s _).subset (by simp)).trans ((frame_setV _ 15 _).subset (by simp))

/-! ### The skip after a key query -/

theorem skipIf_out (b : Bool) (s : State) : (skipIf b s).out = s.out := frame_skipIf s b .out (by simp [among])

/-- A request leaves `PC` alone, so the skip after it is the skip from before it. -/
theorem skipTaken_emit_skipIf {b : Bool} {taken : Prop} (hb : b = true ↔ taken) (r : Request) (s : State) :
    SkipTaken taken s (skipIf b (emit r s)) :=
  skipTaken_skipIf hb (emit r s)

/-! ### The answer to the key wait -/

/-- After the answer `k` to the wait: the byte in `V[wait_x]`, the core running, the render request outstanding (R158,
R181). -/
def keyAnswered (k : Byte) (s : State) : State :=
  { emit .render { setV s.waitX k s with mode := .running } with renderPending := true }

theorem answerKey_of_waitKey {s : State} (h : s.mode = .waitKey) (k : Byte) : answerKey k s = keyAnswered k s := if_pos h

theorem step_of_keyEvent {s : State} {k : Byte} (hev : nextEvent s = .keyEvent k) (hm : s.mode = .waitKey) :
    step s = .next (keyAnswered k (takeEvent s)) := by
  rw [step, hev]
  exact congrArg Host.Outcome.next (answerKey_of_waitKey (s := takeEvent s) hm k)

theorem getV_keyAnswered (k : Byte) (s : State) : getV (keyAnswered k s) s.waitX = k := getV_setV_same s k s.waitX

theorem frame_keyAnswered (k : Byte) (s : State) :
    Frame (among [.v s.waitX, .mode, .out, .renderPending]) s (keyAnswered k s) :=
  ((frame_setV s s.waitX k).subset (by simp)).trans fun p hp => by
    cases p with
    | mode | out | renderPending => simp [among] at hp
    | _ => rfl

/-! ### The acceptance of an outstanding render request -/

/-- After the acceptance: no render request outstanding, the mode by `exit_req` (R181, R194). -/
def renderDone (s : State) : State :=
  { s with renderPending := false, mode := if s.exitReq then .stopped else .running }

theorem act_renderAccepted_of_outstanding {s : State} (hm : s.mode = .running) (hp : s.renderPending = true) :
    act .renderAccepted s = .next (renderDone s) := by
  obtain ⟨-, -, h⟩ | ⟨hno, -⟩ := acceptRender_cases s
  · exact congrArg Host.Outcome.next h
  · exact absurd ⟨hm, hp⟩ hno

theorem frame_renderDone (s : State) : Frame (among [.mode, .renderPending]) s (renderDone s) := fun p hp => by
  cases p with
  | mode | renderPending => simp [among] at hp
  | _ => rfl

/-! ### The statements -/

/-- Settles O17: either condition keeps the core from being ready, so its turn only takes the move and the answers. -/
theorem coreDoesNothingOutsideRunning : Obligations.CoreDoesNothingOutsideRunning := by
  intro s a hev h
  have hnot : ¬ (s.mode = .running ∧ s.renderPending = false) := by
    rintro ⟨hm, hp⟩
    obtain hne | hpending := h
    · exact hne hm
    · simp [hp] at hpending
  exact ⟨_, step_of_core_not_ready hev hnot, frame_turnState a s⟩

/-- Settles O54. -/
theorem clearIssuesOneRequest : Obligations.ClearIssuesOneRequest := fun s => ⟨_, rfl, rfl, frame_emit s _⟩

/-- Settles O55: the rows and coordinates are read before the flag register is written. -/
theorem drawSendsRowsAndTakesTheCollisionBit : Obligations.DrawSendsRowsAndTakesTheCollisionBit := by
  intro x y n s h
  have hflag : getV (drawn x y n s) 15 = bitByte s.answers.collision := getV_setFlag_same _ _
  exact ⟨drawn x y n s, _, exec_drwVxVyN_of_le (by omega) x y, rfl, readBytes_length s _ _,
    fun k hk => readBytes_getElem_eq_some s _ hk, by rw [hflag, bitByte_toNat], frame_drawn x y n s⟩

/-- Settles O56: the query leaves `PC` alone, and the skip leaves the query alone. -/
theorem keySkipsFollowTheAnswer : Obligations.KeySkipsFollowTheAnswer := fun _ s =>
  ⟨⟨_, rfl, skipIf_out _ _, skipTaken_emit_skipIf Iff.rfl _ s, (frame_emit_skipIf s _ _).subset (by simp)⟩,
    ⟨_, rfl, skipIf_out _ _, skipTaken_emit_skipIf (iff_of_eq (Bool.not_eq_true' _)) _ s,
      (frame_emit_skipIf s _ _).subset (by simp)⟩⟩

/-- Settles O57. -/
theorem waitForKeyIsIssued : Obligations.WaitForKeyIsIssued := fun x s =>
  ⟨_, rfl, rfl, rfl, rfl, (frame_keyWait s x).subset (by simp)⟩

/-- Settles O58: the answer leaves the render request outstanding in `RUNNING`, so its acceptance is the exit check. -/
theorem keyAnswerCompletesTheWait : Obligations.KeyAnswerCompletesTheWait := by
  intro s k hev hm
  have hframe : Frame (among [.v s.waitX, .mode, .out, .renderPending, .inbox, .now]) s (keyAnswered k (takeEvent s)) :=
    ((frame_takeEvent s).subset (by simp)).trans ((frame_keyAnswered k (takeEvent s)).subset (by simp [takeEvent]))
  exact ⟨_, step_of_keyEvent hev hm, getV_keyAnswered k (takeEvent s), rfl, rfl, rfl, hframe,
    renderDone _, act_renderAccepted_of_outstanding rfl rfl, rfl, frame_renderDone _⟩

end Sys2Proof.Machine
end

section
/-! SUPPORT. The tick of the timer engine: what it does to the timers, the clock period that carries it, and that no
instruction but the three timer ones sees it. -/

namespace Sys2Proof.Machine

/-! ### Ticks -/

/-- A timer above 0 falls by 1 and one at 0 stays there: the truncated difference (R185). -/
theorem tick_toNat (b : Byte) : (if b = 0 then 0 else b - 1).toNat = b.toNat - 1 := by
  split <;> bv_omega

theorem frame_timerTick (s : State) : Frame (among [.dt, .st]) s (timerTick s) := fun p hp => by
  cases p with
  | dt | st => simp [among] at hp
  | _ => rfl

/-- Settles O50, by induction on the number of ticks. -/
theorem ticksCountDownToZero : Obligations.TicksCountDownToZero := by
  intro n s
  induction n with
  | zero => exact ⟨rfl, rfl, frame_refl s _⟩
  | succ n ih =>
    obtain ⟨hdt, hst, hframe⟩ := ih
    rw [Function.iterate_succ_apply', ← Nat.sub_sub, ← Nat.sub_sub, ← hdt, ← hst]
    exact ⟨tick_toNat _, tick_toNat _, hframe.trans (frame_timerTick _)⟩

/-! ### The clock period -/

theorem timerRun_iff (s : State) : timerRun s = true ↔ s.mode = .running ∨ s.mode = .waitKey := by
  rw [timerRun, Bool.or_eq_true, beq_iff_eq, beq_iff_eq]

theorem frame_prescaler (s : State) (n : Nat) : Frame (among [.prescaler]) s { s with prescaler := n } := fun p hp => by
  cases p with
  | prescaler => simp [among] at hp
  | _ => rfl

/-- Settles O51: the three cases of a clock period, from the state with the move taken. -/
theorem clockTicksOnlyWhileEnabled : Obligations.ClockTicksOnlyWhileEnabled := by
  intro s hev
  have hrun : timerRun (takeEvent s) = true ↔ s.mode = .running ∨ s.mode = .waitKey := timerRun_iff (takeEvent s)
  refine ⟨clockPeriod (takeEvent s), by rw [step, hev, act], ?_⟩
  obtain ⟨hoff, h⟩ | ⟨hon, hwrap, h⟩ | ⟨hon, hcount, h⟩ := clockPeriod_cases (takeEvent s) <;> rw [h]
  · rw [if_neg fun hm => by simp [hrun.2 hm] at hoff]
    exact frame_takeEvent s
  · rw [if_pos (hrun.1 hon), if_pos (show s.prescaler + 1 = Config.tickDiv from hwrap)]
    exact ⟨tick_toNat s.dt, tick_toNat s.st, rfl, ((frame_takeEvent s).subset (by simp)).trans
      (((frame_prescaler _ 0).subset (by simp)).trans ((frame_timerTick _).subset (by simp)))⟩
  · rw [if_pos (hrun.1 hon), if_neg (show s.prescaler + 1 ≠ Config.tickDiv from hcount)]
    exact ⟨rfl, ((frame_takeEvent s).subset (by simp)).trans ((frame_prescaler _ _).subset (by simp))⟩

/-! ### The shared operations after a tick -/

section
variable (s : State)

theorem skipIf_timerTick (b : Bool) : skipIf b (timerTick s) = timerTick (skipIf b s) := by
  rw [skipIf, skipIf, apply_ite timerTick]
  rfl

/-- Neither the range check nor the address that a fault records looks at a timer. -/
theorem checkedAccess_timerTick (len : Nat) {f : State → State} (hf : f (timerTick s) = timerTick (f s)) :
    checkedAccess len (timerTick s) f = timerTick (checkedAccess len s f) := by
  rw [checkedAccess, checkedAccess, apply_ite timerTick, hf]
  rfl

theorem push_setPc_timerTick (w target : Word) :
    push w (timerTick s) (fun s => setPc target s) = timerTick (push w s fun s => setPc target s) := by
  rw [push, push, apply_ite timerTick]
  rfl

theorem pop_setPc_timerTick :
    pop (timerTick s) (fun w s => setPc w s) = timerTick (pop s fun w s => setPc w s) := by
  unfold pop
  rw [timerTick_stack]
  cases s.stack <;> rfl

end

/-- Settles O52: an instruction without a branch carries the timers along unread, and so do the operations that
branch. -/
theorem ticksCommuteWithInstructions : Obligations.TicksCommuteWithInstructions := by
  intro i s h
  cases i with
  | ldVxDt x => exact absurd rfl (h x).1
  | ldDtVx x => exact absurd rfl (h x).2.1
  | ldStVx x => exact absurd rfl (h x).2.2
  | ret => exact ⟨_, rfl, congrArg Host.Outcome.next (pop_setPc_timerTick s)⟩
  | call nnn => exact ⟨_, rfl, congrArg Host.Outcome.next (push_setPc_timerTick s s.pc (addrOperand nnn))⟩
  | seVxKk | sneVxKk | seVxVy | sneVxVy => exact ⟨_, rfl, congrArg Host.Outcome.next (skipIf_timerTick s _)⟩
  | skpVx x | sknpVx x =>
    exact ⟨_, rfl, congrArg Host.Outcome.next (skipIf_timerTick (emit (.keyQuery (getV s x)) s) _)⟩
  | drwVxVyN | ldBVx | ldMemIVx | ldVxMemI =>
    exact ⟨_, rfl, congrArg Host.Outcome.next (checkedAccess_timerTick s _ rfl)⟩
  | _ => exact ⟨_, rfl, rfl⟩

end Sys2Proof.Machine
end

section
/-! SUPPORT. The moves of the host and the environment by their case, and the step that completes an instruction. -/

namespace Sys2Proof.Machine

theorem step_of_nextEvent {s : State} {e : Event} (h : nextEvent s = e) : step s = act e (takeEvent s) := by
  rw [step, h]

/-! ### The host's actions and the key answer -/

/-- A load: in `IDLE` a fault or a store by the number of bytes, in every other mode nothing. -/
theorem hostLoad_cases (bytes : List Byte) (s : State) :
    (s.mode = .idle ∧ 3584 < bytes.length ∧ hostLoad bytes s = raiseFault .capacity 0 s) ∨
    (s.mode = .idle ∧ bytes.length ≤ 3584 ∧ hostLoad bytes s = storeBytes 0x200 bytes s) ∨
    (s.mode ≠ .idle ∧ hostLoad bytes s = s) := by
  unfold hostLoad Config.loadBase Config.memSize
  split
  next hm =>
    split
    next hlong => exact .inl ⟨hm, by omega, rfl⟩
    next hfit => exact .inr (.inl ⟨hm, by omega, rfl⟩)
  next hm => exact .inr (.inr ⟨hm, rfl⟩)

theorem hostStart_cases (s : State) :
    (s.mode = .idle ∧
      hostStart s = { s with mode := .running, prescaler := Config.startPhase s.now % Config.tickDiv }) ∨
    (s.mode ≠ .idle ∧ hostStart s = s) := by
  unfold hostStart
  split
  next hm => exact .inl ⟨hm, rfl⟩
  next hm => exact .inr ⟨hm, rfl⟩

theorem answerKey_of_not_waitKey {s : State} (h : s.mode ≠ .waitKey) (k : Byte) : answerKey k s = s := if_neg h

theorem frame_driveExitReq (s : State) (level : Bool) : Frame (among [.exitReq]) s (driveExitReq level s) :=
  fun p hp => by
    cases p with
    | exitReq => simp [among] at hp
    | _ => rfl

/-- Settles O4. -/
theorem loadTooLongIsACapacityError : Obligations.LoadTooLongIsACapacityError := by
  intro s bytes hev hm hlong
  refine ⟨_, step_of_nextEvent hev, ?_⟩
  obtain ⟨-, -, h⟩ | ⟨-, hfit, -⟩ | ⟨hne, -⟩ := hostLoad_cases bytes (takeEvent s)
  · exact h ▸ ⟨faultTaken_raiseFault (takeEvent s) .capacity 0, rfl⟩
  · omega
  · exact absurd hm hne

/-- Settles O6: each of the four leaves the state with the move taken. -/
theorem hostActionsOutOfPlaceAreIgnored : Obligations.HostActionsOutOfPlaceAreIgnored := by
  intro s h
  refine ⟨takeEvent s, ?_, frame_takeEvent s⟩
  obtain ⟨⟨bytes, hev⟩, hm⟩ | ⟨hev, hm⟩ | ⟨⟨k, hev⟩, hm⟩ | ⟨hev, hno⟩ := h <;> rw [step_of_nextEvent hev]
  · exact congrArg Host.Outcome.next (if_neg hm)
  · exact congrArg Host.Outcome.next (if_neg hm)
  · exact congrArg Host.Outcome.next (answerKey_of_not_waitKey (s := takeEvent s) hm k)
  · refine congrArg Host.Outcome.next (if_neg ?_)
    rintro ⟨hm, hp⟩
    obtain hne | hpending := hno
    · exact hne hm
    · exact absurd (hpending.symm.trans hp) Bool.false_ne_true

/-- Settles O7. -/
theorem exitRequestIsOnlyALevel : Obligations.ExitRequestIsOnlyALevel := fun s level hev =>
  ⟨_, step_of_nextEvent hev, rfl,
    ((frame_takeEvent s).subset (by simp)).trans ((frame_driveExitReq _ level).subset (by simp))⟩

theorem exists_step_frame_subset {s : State} {l l' : List Part}
    (h : ∃ t, step s = .next t ∧ Frame (among l) s t) (hl : l ⊆ l') : ∃ t, step s = .next t ∧ Frame (among l') s t :=
  h.imp fun _ => And.imp_right fun hframe => hframe.subset hl

/-- Settles O8: in both modes the timer engine is disabled, the core's turn does nothing, and `Load`, `Start`, a
key answer and an acceptance are out of place. -/
theorem stoppedAndHaltedAreFrozen : Obligations.StoppedAndHaltedAreFrozen := by
  intro s hm hne
  have hmodes : s.mode ≠ .idle ∧ s.mode ≠ .waitKey ∧ s.mode ≠ .running := by rcases hm with hm | hm <;> simp [hm]
  obtain ⟨hidle, hwait, hrun⟩ := hmodes
  have hignored := hostActionsOutOfPlaceAreIgnored s
  cases hev : nextEvent s with
  | reset => exact absurd hev hne
  | load bytes => exact exists_step_frame_subset (hignored (.inl ⟨⟨bytes, hev⟩, hidle⟩)) (by simp)
  | start => exact exists_step_frame_subset (hignored (.inr (.inl ⟨hev, hidle⟩))) (by simp)
  | keyEvent k => exact exists_step_frame_subset (hignored (.inr (.inr (.inl ⟨⟨k, hev⟩, hwait⟩)))) (by simp)
  | renderAccepted => exact exists_step_frame_subset (hignored (.inr (.inr (.inr ⟨hev, .inl hrun⟩)))) (by simp)
  | clock =>
    obtain ⟨t, ht, hclock⟩ := clockTicksOnlyWhileEnabled s hev
    rw [if_neg (not_or.2 ⟨hrun, hwait⟩)] at hclock
    exact ⟨t, ht, hclock.subset (by simp)⟩
  | exitReq level =>
    obtain ⟨t, ht, -, hframe⟩ := exitRequestIsOnlyALevel s level hev
    exact ⟨t, ht, hframe.subset (by simp)⟩
  | core a => exact exists_step_frame_subset (coreDoesNothingOutsideRunning s a hev (.inl hrun)) (by simp)

/-! ### The end of an instruction -/

theorem frame_requestRender (s : State) : Frame (among [.out, .renderPending]) s (requestRender s) := by
  obtain ⟨-, h⟩ | ⟨-, h⟩ := requestRender_cases s <;> rw [h]
  · intro p hp
    cases p with
    | out | renderPending => simp [among] at hp
    | _ => rfl
  · exact frame_refl s _

theorem requestRender_of_running {s : State} (h : s.mode = .running) :
    requestRender s = { emit .render s with renderPending := true } := by
  rw [requestRender, h]

theorem requestRender_of_not_running {s : State} (h : s.mode ≠ .running) : requestRender s = s := by
  obtain ⟨hm, -⟩ | ⟨-, hr⟩ := requestRender_cases s
  · exact absurd hm h
  · exact hr

/-- A step in which the core executes an instruction ends as step 2 of the cycle begins (R181). -/
theorem step_of_exec {s u : State} {a : Answers} {w : Word} {i : Instr} (hruns : CoreRuns a s)
    (hread : readWord s s.pc.toNat = some w) (hdec : decodeWord w = .ok i)
    (hexec : exec i (executeState a s) = .next u) : step s = .next (requestRender u) := by
  obtain ⟨hpc, rfl⟩ := readWord_pc_eq_some hread
  rw [step_eq_runWord hruns hpc, runWord_of_decode hdec, hexec, finishCycle]

/-- Settles O15. -/
theorem completedInstructionRendersThenChecksExit : Obligations.CompletedInstructionRendersThenChecksExit := by
  refine ⟨fun s a i w u hruns hread hdec hexec hm => ?_, fun s hev hm hp => ?_⟩
  · have hrender := requestRender_of_running hm
    exact ⟨_, step_of_exec hruns hread hdec hexec, hrender ▸ rfl, hrender ▸ rfl, hrender ▸ hm, frame_requestRender u⟩
  · have hact := act_renderAccepted_of_outstanding (s := takeEvent s) hm hp
    exact ⟨_, (step_of_nextEvent hev).trans hact, rfl, rfl,
      ((frame_takeEvent s).subset (by simp)).trans ((frame_renderDone _).subset (by simp))⟩

/-- Settles O16: the request of step 2 goes out in `RUNNING` only. -/
theorem noRenderAfterAFaultOrDuringAWait : Obligations.NoRenderAfterAFaultOrDuringAWait := by
  intro s a i w u hruns hread hdec hexec hm
  have hne : u.mode ≠ .running := by rcases hm with hm | hm <;> simp [hm]
  rw [step_of_exec hruns hread hdec hexec, requestRender_of_not_running hne]

/-- Settles O10: whether or not the core runs in the step, what happens is a next state. -/
theorem everyStepAnswersANextState : Obligations.EveryStepAnswersANextState := by
  intro s
  by_cases hruns : ∃ a, CoreRuns a s
  · obtain ⟨a, hruns⟩ := hruns
    obtain ⟨w, i, u, -, -, -, h⟩ | ⟨code, info, u, -, h⟩ := step_cases_of_coreRuns hruns <;> exact ⟨_, h⟩
  · obtain ⟨t, ht, -⟩ := act_timersNotRaised (nextEvent s) (takeEvent s) fun a hev hready => hruns ⟨a, hev, hready⟩
    exact ⟨t, ht⟩

end Sys2Proof.Machine
end

section
/-! SUPPORT. The changes of mode: what an instruction can do to the mode, and the mode after each move. -/

namespace Sys2Proof.Machine

/-! ### The mode after an instruction -/

/-- From `s` to `t` the mode stays, or the core halts with a fault recorded. -/
def KeepsModeOrFaults (s t : State) : Prop := t.mode = s.mode ∨ (t.mode = .halted ∧ t.faultCode ≠ .noFault)

section
variable (s : State)

theorem keepsModeOrFaults_checkedAccess (len : Nat) {f : State → State} (hf : (f s).mode = s.mode) :
    KeepsModeOrFaults s (checkedAccess len s f) := by
  obtain ⟨-, h⟩ | ⟨-, h⟩ := checkedAccess_cases len s f <;> rw [h]
  · exact .inl hf
  · exact .inr ⟨rfl, nofun⟩

theorem keepsModeOrFaults_push_setPc (w target : Word) : KeepsModeOrFaults s (push w s fun s => setPc target s) := by
  obtain ⟨-, h⟩ | ⟨-, h⟩ := push_cases w s fun s => setPc target s <;> rw [h]
  · exact .inr ⟨rfl, nofun⟩
  · exact .inl rfl

theorem keepsModeOrFaults_pop_setPc : KeepsModeOrFaults s (pop s fun w s => setPc w s) := by
  obtain ⟨-, h⟩ | ⟨w, rest, -, h⟩ := pop_cases s fun w s => setPc w s <;> rw [h]
  · exact .inr ⟨rfl, nofun⟩
  · exact .inl rfl

end

/-- Only `Fx0A` changes the mode without a fault, and it leads to `WAIT_KEY`. -/
theorem exec_mode_cases {i : Instr} {s t : State} (h : exec i s = .next t) :
    KeepsModeOrFaults s t ∨ (t.mode = .waitKey ∧ ∃ x, i = .ldVxK x) := by
  cases i with
  | ldVxK x => exact .inr ⟨Host.Outcome.next.inj h ▸ rfl, x, rfl⟩
  | ret => exact .inl (Host.Outcome.next.inj h ▸ keepsModeOrFaults_pop_setPc s)
  | call nnn => exact .inl (Host.Outcome.next.inj h ▸ keepsModeOrFaults_push_setPc s _ _)
  | drwVxVyN | ldBVx | ldMemIVx | ldVxMemI =>
    exact .inl (Host.Outcome.next.inj h ▸ keepsModeOrFaults_checkedAccess s _ rfl)
  | _ => exact .inl (.inl (exec_frame h .mode (by simp [mayChange, among])))

/-! ### The mode after a step -/

theorem FaultTaken.halted_recorded {code : FaultCode} {info : Nat} {s t : State} (h : FaultTaken code info s t)
    (hc : code ≠ .noFault) : t.mode = .halted ∧ t.faultCode ≠ .noFault := by
  obtain ⟨hmode, rfl, -, -⟩ := h
  exact ⟨hmode, hc⟩

/-- After a step in which the core runs it is still `RUNNING`, or it halted with a fault recorded, or it executed an
`Fx0A`. -/
theorem step_mode_of_coreRuns {s : State} {a : Answers} (hruns : CoreRuns a s) : ∃ t, step s = .next t ∧
    (t.mode = .running ∨ (t.mode = .halted ∧ t.faultCode ≠ .noFault) ∨
      (t.mode = .waitKey ∧ ∃ w x, readWord s s.pc.toNat = some w ∧ decodeWord w = .ok (.ldVxK x))) := by
  by_cases hpc : s.pc.toNat ≤ 0xFFE
  · have hread := readWord_pc_of_le hpc
    cases hdec : decodeWord (wordAtPc s) with
    | ok i =>
      obtain ⟨u, hexec, -⟩ := exec_next_frame i (executeState a s)
      have hmode : (requestRender u).mode = u.mode := frame_requestRender u .mode (by simp [among])
      have hcode : (requestRender u).faultCode = u.faultCode := frame_requestRender u .faultCode (by simp [among])
      refine ⟨_, step_of_exec hruns hread hdec hexec, ?_⟩
      rw [hmode, hcode]
      obtain (hkept | hfault) | ⟨hwait, x, rfl⟩ := exec_mode_cases hexec
      · have ⟨_, hm, _⟩ := hruns
        exact .inl (hkept.trans hm)
      · exact .inr (.inl hfault)
      · exact .inr (.inr ⟨hwait, _, x, hread, hdec⟩)
    | error e =>
      obtain ⟨t, ht, hfault, -⟩ := illegalWordHaltsTheCore s a _ e hruns hread hdec
      exact ⟨t, ht, .inr (.inl (hfault.halted_recorded nofun))⟩
  · obtain ⟨t, ht, hfault⟩ := fetchBeyondMemoryFaults.1 s a hruns (by omega)
    exact ⟨t, ht, .inr (.inl (hfault.halted_recorded nofun))⟩

/-- From `s` to `t` by the move `e`: a change of mode is listed, is none to `WAIT_KEY`, and halts the core only with a fault
recorded. -/
def ListedWithoutWait (e : Event) (s t : State) : Prop :=
  t.mode ≠ s.mode →
    ModeChange s.mode e s.exitReq t.mode ∧ t.mode ≠ .waitKey ∧ (t.mode = .halted → t.faultCode ≠ .noFault)

theorem ListedWithoutWait.of_mode_eq {e : Event} {s t : State} (h : t.mode = s.mode) : ListedWithoutWait e s t :=
  fun hne => absurd h hne

section
variable (s : State)

theorem listedWithoutWait_hostLoad (bytes : List Byte) : ListedWithoutWait (.load bytes) s (hostLoad bytes s) := by
  obtain ⟨hm, hlong, h⟩ | ⟨-, -, h⟩ | ⟨-, h⟩ := hostLoad_cases bytes s <;> rw [h]
  · exact fun _ => ⟨hm ▸ .loadTooLong bytes _ hlong, nofun, fun _ => nofun⟩
  · exact .of_mode_eq rfl
  · exact .of_mode_eq rfl

theorem listedWithoutWait_hostStart : ListedWithoutWait .start s (hostStart s) := by
  obtain ⟨hm, h⟩ | ⟨-, h⟩ := hostStart_cases s <;> rw [h]
  · exact fun _ => ⟨hm ▸ .start _, nofun, nofun⟩
  · exact .of_mode_eq rfl

theorem clockPeriod_mode : (clockPeriod s).mode = s.mode := by
  obtain ⟨-, h⟩ | ⟨-, -, h⟩ | ⟨-, -, h⟩ := clockPeriod_cases s <;> exact (congrArg State.mode h).trans rfl

theorem listedWithoutWait_answerKey (k : Byte) : ListedWithoutWait (.keyEvent k) s (answerKey k s) := by
  by_cases hm : s.mode = .waitKey
  · rw [answerKey_of_waitKey hm]
    exact fun _ => ⟨hm ▸ .key k _, nofun, nofun⟩
  · exact .of_mode_eq (congrArg State.mode (answerKey_of_not_waitKey hm k))

theorem listedWithoutWait_acceptRender : ListedWithoutWait .renderAccepted s (acceptRender s) := by
  obtain ⟨hm, -, h⟩ | ⟨-, h⟩ := acceptRender_cases s <;> rw [h]
  · cases hx : s.exitReq with
    | true =>
      intro _
      rw [hm, hx]
      exact ⟨.exit, nofun, nofun⟩
    | false => exact .of_mode_eq hm.symm
  · exact .of_mode_eq rfl

end

/-- A move in which the core executes nothing. -/
theorem act_listedWithoutWait (e : Event) (s : State)
    (h : ∀ a, e = .core a → ¬ (s.mode = .running ∧ s.renderPending = false)) :
    ∃ t, act e s = .next t ∧ ListedWithoutWait e s t :=
  match e with
  | .reset => ⟨_, rfl, fun _ => ⟨.reset _ _, nofun, nofun⟩⟩
  | .load bytes => ⟨_, rfl, listedWithoutWait_hostLoad s bytes⟩
  | .start => ⟨_, rfl, listedWithoutWait_hostStart s⟩
  | .clock => ⟨_, rfl, .of_mode_eq (clockPeriod_mode s)⟩
  | .exitReq _ => ⟨_, rfl, .of_mode_eq rfl⟩
  | .keyEvent k => ⟨_, rfl, listedWithoutWait_answerKey s k⟩
  | .renderAccepted => ⟨_, rfl, listedWithoutWait_acceptRender s⟩
  | .core a => ⟨_, coreTurn_of_not_ready (s := { s with answers := a }) (h a rfl), .of_mode_eq rfl⟩

/-- Settles O9: a step in which the core runs has the three modes that can follow `RUNNING`, and every other move is listed
by its own case. -/
theorem modeChangesFollowTheTable : Obligations.ModeChangesFollowTheTable := by
  intro s t hstep hne
  by_cases hruns : ∃ a, CoreRuns a s
  · obtain ⟨a, hruns⟩ := hruns
    have ⟨hev, hm, _⟩ := hruns
    obtain ⟨u, hu, hmode⟩ := step_mode_of_coreRuns hruns
    obtain rfl : u = t := Host.Outcome.next.inj (hu.symm.trans hstep)
    rw [hev, hm]
    obtain hrunning | ⟨hhalted, hcode⟩ | ⟨hwait, hword⟩ := hmode
    · exact absurd (hrunning.trans hm.symm) hne
    · rw [hhalted]
      exact ⟨.fault a _, nofun, fun _ => hcode⟩
    · rw [hwait]
      exact ⟨.wait a _, fun _ => hword, nofun⟩
  · obtain ⟨u, hu, hlisted⟩ := act_listedWithoutWait (nextEvent s) (takeEvent s) fun a hev hready =>
      hruns ⟨a, hev, hready⟩
    obtain rfl : u = t := Host.Outcome.next.inj (hu.symm.trans hstep)
    obtain ⟨hchange, hnowait, hcode⟩ := hlisted hne
    exact ⟨hchange, fun hwait => absurd hwait hnowait, hcode⟩

end Sys2Proof.Machine
end

section
/-! SUPPORT. Reset, load and start from the state they meet, and the reset count, which an instruction on written cells
does not see. -/

namespace Sys2Proof.Machine

/-! ### The host's actions -/

/-- Memory after a reset lists no cell, so every read gives what the new reset count leaves there (R211, R212). -/
theorem readByte_hostReset (s : State) (a : Nat) : readByte (hostReset s) a = unlisted (s.epoch + 1) a := rfl

/-- Settles O2: the first part is the reset state under a new reset count, the second is that `STOPPED` and `HALTED` are
frozen. -/
theorem resetReturnsTheCoreToIdle : Obligations.ResetReturnsTheCoreToIdle := by
  refine ⟨fun s hev => ⟨_, step_of_nextEvent hev, getV_reset, rfl, rfl, rfl, rfl, rfl, fun a ha => ?_, fun a ha _ => ?_,
    rfl, rfl, rfl, rfl, rfl, rfl, rfl⟩, fun s t hm hstep hne => ?_⟩
  · exact (readByte_hostReset _ a).trans (unlisted_of_lt ha)
  · exact (readByte_hostReset _ a).trans (unlisted_of_le ha)
  · by_contra hev
    obtain ⟨u, hu, hframe⟩ := stoppedAndHaltedAreFrozen s hm hev
    obtain rfl : u = t := Host.Outcome.next.inj (hu.symm.trans hstep)
    exact hne (hframe .mode (by simp [among]))

/-- Settles O3. -/
theorem loadOverlaysTheProgram : Obligations.LoadOverlaysTheProgram := by
  intro s bytes hev hm hfit
  refine ⟨_, step_of_nextEvent hev, ?_⟩
  obtain ⟨-, hlong, -⟩ | ⟨-, -, h⟩ | ⟨hne, -⟩ := hostLoad_cases bytes (takeEvent s)
  · omega
  · rw [h]
    exact ⟨readByte_storeBytes_offset _ 0x200 bytes,
      ((frame_takeEvent s).mono fun _ => .inr).trans ((frame_storeBytes _ 0x200 bytes).mono fun _ => .inl)⟩
  · exact absurd hm hne

theorem frame_mode_prescaler (s : State) (m : Mode) (n : Nat) :
    Frame (among [.mode, .prescaler]) s { s with mode := m, prescaler := n } := fun p hp => by
  cases p with
  | mode | prescaler => simp [among] at hp
  | _ => rfl

/-- Settles O5: the phase is below `TICK_DIV` because `TICK_DIV` is at least 1. -/
theorem startSetsTheCoreRunning : Obligations.StartSetsTheCoreRunning := by
  intro s hev hm
  refine ⟨_, step_of_nextEvent hev, ?_⟩
  obtain ⟨-, h⟩ | ⟨hne, -⟩ := hostStart_cases (takeEvent s)
  · rw [h]
    exact ⟨rfl, rfl, Nat.mod_lt _ tickDiv_pos,
      ((frame_takeEvent s).subset (by simp)).trans ((frame_mode_prescaler _ _ _).subset (by simp))⟩
  · exact absurd hm hne

/-! ### The reset count -/

/-- The same state under another reset count, which selects the bytes of the unwritten cells (log 3). -/
def withEpoch (e : Nat) (s : State) : State := { s with epoch := e }

section
variable (e : Nat) (s : State)

theorem dataBase_withEpoch : dataBase (withEpoch e s) = dataBase s := rfl

theorem skipIf_withEpoch (b : Bool) : skipIf b (withEpoch e s) = withEpoch e (skipIf b s) := by
  rw [skipIf, skipIf, apply_ite (withEpoch e)]
  rfl

/-- Neither the range check nor the address that a fault records depends on the reset count. -/
theorem checkedAccess_withEpoch (len : Nat) {f : State → State} (hf : f (withEpoch e s) = withEpoch e (f s)) :
    checkedAccess len (withEpoch e s) f = withEpoch e (checkedAccess len s f) := by
  rw [checkedAccess, checkedAccess, apply_ite (withEpoch e), hf]
  rfl

theorem push_setPc_withEpoch (w target : Word) :
    push w (withEpoch e s) (fun s => setPc target s) = withEpoch e (push w s fun s => setPc target s) := by
  rw [push, push, apply_ite (withEpoch e)]
  rfl

theorem pop_setPc_withEpoch :
    pop (withEpoch e s) (fun w s => setPc w s) = withEpoch e (pop s fun w s => setPc w s) := by
  obtain ⟨hs, h⟩ | ⟨w, rest, hs, h⟩ := pop_cases s fun w s => setPc w s
  · rw [h]
    exact pop_of_nil (s := withEpoch e s) hs _
  · rw [h]
    exact pop_of_cons (s := withEpoch e s) hs _

/-- A written cell reads as the byte written, whatever `MEM_INIT` is. -/
theorem readByte_withEpoch {a : Nat} (h : (s.mem.cell a).isSome = true) :
    readByte (withEpoch e s) a = readByte s a := by
  obtain ⟨b, hb⟩ := Option.isSome_iff_exists.1 h
  simp only [readByte, withEpoch, hb, Option.getD_some]

theorem readBytes_withEpoch {a len : Nat} (h : ∀ k, k < len → (s.mem.cell (a + k)).isSome = true) :
    readBytes (withEpoch e s) a len = readBytes s a len :=
  List.map_congr_left fun k hk => readByte_withEpoch e s (h k (List.mem_range.1 hk))

end

section
variable {s : State} (h : ∀ k, k < 16 → (s.mem.cell (dataBase s + k)).isSome = true) (e : Nat)
include h

theorem drawn_withEpoch (x y : Reg) (n : BitVec 4) : drawn x y n (withEpoch e s) = withEpoch e (drawn x y n s) := by
  have hrows : readBytes (withEpoch e s) (dataBase s) n.toNat = readBytes s (dataBase s) n.toNat :=
    readBytes_withEpoch e s fun k hk => h k (hk.trans n.isLt)
  rw [drawn, dataBase_withEpoch, hrows]
  rfl

theorem loadRegsAtI_withEpoch (x : Reg) : loadRegsAtI x (withEpoch e s) = withEpoch e (loadRegsAtI x s) := by
  have hbytes : readBytes (withEpoch e s) (dataBase s) (x.val + 1) = readBytes s (dataBase s) (x.val + 1) :=
    readBytes_withEpoch e s fun k hk => h k (by omega)
  rw [loadRegsAtI, dataBase_withEpoch, hbytes]
  rfl

end

/-- Settles O47: `Dxyn` and `Fx65` read memory, at most 16 cells from `I`; every other instruction carries the reset count
along unread. -/
theorem writtenCellsHideTheUnknownMemory : Obligations.WrittenCellsHideTheUnknownMemory := by
  intro i s e h
  cases i with
  | drwVxVyN x y n =>
    exact ⟨_, rfl, congrArg Host.Outcome.next (checkedAccess_withEpoch e s _ (drawn_withEpoch h e x y n))⟩
  | ldVxMemI x =>
    exact ⟨_, rfl, congrArg Host.Outcome.next (checkedAccess_withEpoch e s _ (loadRegsAtI_withEpoch h e x))⟩
  | ldBVx | ldMemIVx => exact ⟨_, rfl, congrArg Host.Outcome.next (checkedAccess_withEpoch e s _ rfl)⟩
  | ret => exact ⟨_, rfl, congrArg Host.Outcome.next (pop_setPc_withEpoch e s)⟩
  | call nnn => exact ⟨_, rfl, congrArg Host.Outcome.next (push_setPc_withEpoch e s s.pc (addrOperand nnn))⟩
  | seVxKk | sneVxKk | seVxVy | sneVxVy => exact ⟨_, rfl, congrArg Host.Outcome.next (skipIf_withEpoch e s _)⟩
  | skpVx x | sknpVx x =>
    exact ⟨_, rfl, congrArg Host.Outcome.next (skipIf_withEpoch e (emit (.keyQuery (getV s x)) s) _)⟩
  | _ => exact ⟨_, rfl, rfl⟩

end Sys2Proof.Machine
end
